-- ==== Sys2Proof/Word.lean ====
section
/-! DEFINITION. The plain word types of the WS2812 encoder core (spec 00_scope.md R13, R14).

A slot value or compare value (R10) is an unsigned number of `SLOT_W` bits. `SLOT_W` is an argument of the
model, so the value is a `Nat` and its bound `2 ^ SLOT_W` is an invariant (`Machine.State.Wf`); no rule adds,
shifts or negates a slot value (R97). The identity of a completion event (R12, R67) is a `Nat` below
`2 ^ ID_W` in the same way. -/

namespace Sys2Proof

/-- One colour channel: 8 bits, unsigned (R13). -/
abbrev Byte := BitVec 8

/-- One command word: 64 bits (R13, R60). -/
abbrev CommandWord := BitVec 64

end Sys2Proof
end

