-- ==== Sys2Proof/Config.lean ====
section
/-! DEFINITION. The parameters of the model (spec 00_scope.md R5 to R12) and its free values.

The source fixes no value of a parameter, so a parameter set is an argument of the model: it stands in
`Machine.State.cfg`, no step changes it, and a statement over all states holds for every set. -/

namespace Sys2Proof

/-- One parameter set. -/
structure Config where
  /-- `LED_COUNT` (R5). -/
  ledCount : Nat
  /-- `RESET_SLOTS` (R7). -/
  resetSlots : Nat
  /-- `CMP_SHORT`, the compare value of a 0 (R8). -/
  cmpShort : Nat
  /-- `CMP_LONG`, the compare value of a 1 (R8). -/
  cmpLong : Nat
  /-- `PERIOD`, where it is given (R9). -/
  period : Option Nat
  /-- `SLOT_W` (R10). -/
  slotW : Nat
  /-- `N_REQ` (R11). -/
  nReq : Nat
  /-- `ID_W` (R12). -/
  idW : Nat
  /-- `TIM_ID` (R12). -/
  timId : Nat
  deriving DecidableEq, Repr

/-- The vectors' parameter set TV, the defaults of R5 to R12 (spec 95_test_vectors.md).
DESIGN CHOICE, unsafe: the spec makes these numbers defaults of its vectors only (assumption 2). -/
def Config.tv : Config :=
  { ledCount := 4, resetSlots := 40, cmpShort := 32, cmpLong := 64, period := some 100,
    slotW := 16, nReq := 2, idW := 8, timId := 1 }

/-- The vectors' second parameter set TV2 (spec 95_test_vectors.md). -/
def Config.tv2 : Config :=
  { ledCount := 1, resetSlots := 2, cmpShort := 28, cmpLong := 57, period := some 90,
    slotW := 16, nReq := 1, idW := 8, timId := 1 }

/-! ### Free values

Each is an uninterpreted constant: nothing can be proved of its values. The first argument is the
number of the draw (`Machine.State.draws`), so every draw is a fresh value. -/

/-- Which kind of move comes next when the agenda settles nothing (R16, R109, R173). DESIGN CHOICE, safe
(assumption 1). -/
opaque Config.freeAgent : Nat → Nat

/-- Which requester a free move concerns (R16, R109, R173). DESIGN CHOICE, safe (assumption 1). -/
opaque Config.freePort : Nat → Nat

/-- The command word of a free move (R173). DESIGN CHOICE, safe (assumption 1). -/
opaque Config.freeWord : Nat → CommandWord

/-- The identity of a free completion event (R112, R173). DESIGN CHOICE, safe (assumption 1). -/
opaque Config.freeIdentity : Nat → Nat

/-- Channel `c` of `PIX[i]` after a RESET step (R33, R160). DESIGN CHOICE, safe (assumption 3). -/
opaque Config.freeChannel : Nat → Nat → Nat → Byte

/-- `WBUF[k]` after a RESET step, before it is cut to `SLOT_W` bits (R33, R160). DESIGN CHOICE, safe
(assumption 3). -/
opaque Config.freeSlot : Nat → Nat → Nat

/-- `CMP` after a RESET step, before it is cut to `SLOT_W` bits (R33, R161). DESIGN CHOICE, safe
(assumption 3). -/
opaque Config.freeCompare : Nat → Nat

end Sys2Proof
end

