-- ==== Sys2Proof/Syntax.lean ====
section
/-! DEFINITION. The instructions of spec/opcode_table.json, each with the requester port it stands on, and the
two kinds of word the core takes in (spec 30_encoding.md R60, R67). -/

namespace Sys2Proof

/-- A command as a requester issues it on port `port`, or the completion event. One constructor per
row of the opcode table. -/
inductive Instr where
  /-- INIT (R108). -/
  | init (port : Nat)
  /-- SET_PIXEL `idx, red, green, blue` (R81); the colours stand in input order (R60). -/
  | setPixel (port : Nat) (idx : BitVec 32) (red green blue : Byte)
  /-- CLEAR (R82). -/
  | clear (port : Nat)
  /-- SHOW (R101). -/
  | showCmd (port : Nat)
  /-- RESERVED: a word whose `op` is 0x0 or 0x5 to 0xF (R64). -/
  | reserved (port : Nat) (op : BitVec 4)
  /-- COMPLETE(`id`), the completion notification (R67, R111). -/
  | complete (id : Nat)
  deriving DecidableEq, Repr

/-- What arrives at the core: a command word on a requester port (format C, R60) or an event word on
the completion input (format E, R67). -/
inductive Input where
  | command (port : Nat) (word : CommandWord)
  | event (word : Nat)
  deriving DecidableEq, Repr

end Sys2Proof
end

