-- ==== Sys2Proof/WellFormed.lean ====
section
/-! DEFINITION. When a parameter set meets its constraints (spec 00_scope.md R5 to R12) and when an
instruction is one the encodings can express under a parameter set (spec 30_encoding.md R60 to R67). -/

namespace Sys2Proof

/-- The constraints of R5, R7, R8, R9, R10, R11 and R12 (D5, D6, D7, D15, D19). -/
def Config.wf (c : Config) : Bool :=
  decide (1 ≤ c.ledCount) && decide (1 ≤ c.resetSlots) && decide (2 ≤ c.slotW) && decide (1 ≤ c.nReq)
    && decide (0 < c.cmpShort) && decide (c.cmpShort < c.cmpLong) && decide (c.cmpLong < 2 ^ c.slotW)
    && c.period.all (fun n => decide (4 ≤ n) && decide (c.cmpLong < n))
    && decide (c.timId < 2 ^ c.idW)

/-- The opcodes that name a command (R61). -/
def opAssigned (op : BitVec 4) : Bool :=
  op == 0x1#4 || op == 0x2#4 || op == 0x3#4 || op == 0x4#4

/-- An instruction the encodings express: its port exists (R11), a RESERVED word's opcode is a reserved
one (R64), and an event's identity has `ID_W` bits (R67). -/
def Instr.wf (c : Config) : Instr → Bool
  | .init port => decide (port < c.nReq)
  | .setPixel port _ _ _ _ => decide (port < c.nReq)
  | .clear port => decide (port < c.nReq)
  | .showCmd port => decide (port < c.nReq)
  | .reserved port op => decide (port < c.nReq) && !opAssigned op
  | .complete id => decide (id < 2 ^ c.idW)

end Sys2Proof
end

