-- ==== Sys2Proof/Decode.lean ====
section
/-! DEFINITION. The decoder, total on every input and rejecting by name, and the encoder written from the
same tables (spec 30_encoding.md R60 to R64, R67, R73). -/

namespace Sys2Proof

/-- Why an input is no instruction. A 64-bit word on a port that exists always decodes (R73). -/
inductive DecodeError where
  /-- A command word on a port outside `[0, N_REQ)` (R11). -/
  | noSuchPort
  /-- An event word with more than `ID_W` bits (R67). -/
  | notAnEventWord
  deriving DecidableEq, Repr

/-! ### The fields of format C (R60) -/

/-- `op = word[63:60]`. -/
def fieldOp (w : CommandWord) : BitVec 4 := w.extractLsb' 60 4

/-- `rsv = word[59:56]`, ignored on decode. -/
def fieldRsv (w : CommandWord) : BitVec 4 := w.extractLsb' 56 4

/-- `idx = word[55:24]`, all 32 bits, unsigned (R62). -/
def fieldIdx (w : CommandWord) : BitVec 32 := w.extractLsb' 24 32

/-- `red = word[23:16]`. -/
def fieldRed (w : CommandWord) : Byte := w.extractLsb' 16 8

/-- `green = word[15:8]`. -/
def fieldGreen (w : CommandWord) : Byte := w.extractLsb' 8 8

/-- `blue = word[7:0]`. -/
def fieldBlue (w : CommandWord) : Byte := w.extractLsb' 0 8

/-- The decoder of R73 for a word on port `port`. -/
def decodeCommand (port : Nat) (w : CommandWord) : Instr :=
  if fieldOp w = 0x1#4 then .init port
  else if fieldOp w = 0x2#4 then
    .setPixel port (fieldIdx w) (fieldRed w) (fieldGreen w) (fieldBlue w)
  else if fieldOp w = 0x3#4 then .clear port
  else if fieldOp w = 0x4#4 then .showCmd port
  else .reserved port (fieldOp w)

/-- Decoding of what arrives at the core under the parameter set `c`. -/
def decode (c : Config) : Input → Except DecodeError Instr
  | .command port w => if port < c.nReq then .ok (decodeCommand port w) else .error .noSuchPort
  | .event w => if w < 2 ^ c.idW then .ok (.complete w) else .error .notAnEventWord

/-- What arrives when the `nbits`-bit word `w` of the opcode table is presented: a 64-bit row is a
command word, taken on port 0 (R65: without a port, port 0 is meant); a shorter row is an event word.
DESIGN CHOICE, safe (assumption 8). -/
def tableInput (nbits w : Nat) : Option Input :=
  if nbits = 64 then some (.command 0 (BitVec.ofNat 64 w))
  else if nbits < 64 then some (.event w)
  else none

/-- The instruction the decoder reads from a word of the opcode table, under the set TV. -/
def decodeTableWord (nbits w : Nat) : Option Instr :=
  match tableInput nbits w with
  | none => none
  | some x =>
    match decode Config.tv x with
    | .ok i => some i
    | .error _ => none

/-! ### The encoder -/

/-- A word of format C (R60). -/
def packCommand (op rsv : BitVec 4) (idx : BitVec 32) (red green blue : Byte) : CommandWord :=
  op ++ rsv ++ idx ++ red ++ green ++ blue

/-- The canonical word of a command without operands: every ignored bit 0 (R63). -/
def packPlain (op : BitVec 4) : CommandWord := packCommand op 0 0 0 0 0

/-- The canonical input that stands for an instruction (R61, R63, R67). -/
def encode : Instr → Input
  | .init port => .command port (packPlain 0x1#4)
  | .setPixel port idx red green blue => .command port (packCommand 0x2#4 0 idx red green blue)
  | .clear port => .command port (packPlain 0x3#4)
  | .showCmd port => .command port (packPlain 0x4#4)
  | .reserved port op => .command port (packPlain op)
  | .complete id => .event id

end Sys2Proof
end

