-- ==== Sys2Proof/Machine/Params.lean ====
section
/-! DEFINITION. What the parameters determine: the buffer's lengths (spec 00_scope.md R6) and the default pulse
constants (spec 30_encoding.md R70). -/

namespace Sys2Proof

/-- `DATA_SLOTS = 24 * LED_COUNT` (R6). -/
def Config.dataSlots (c : Config) : Nat := 24 * c.ledCount

/-- `BUF_LEN = DATA_SLOTS + RESET_SLOTS` (R6, R94). -/
def Config.bufLen (c : Config) : Nat := c.dataSlots + c.resetSlots

/-- The default `CMP_SHORT = floor(32 * PERIOD / 100)` (R70). -/
def Config.defaultShort (period : Nat) : Nat := 32 * period / 100

/-- The default `CMP_LONG = floor(64 * PERIOD / 100)` (R70). -/
def Config.defaultLong (period : Nat) : Nat := 64 * period / 100

/-- The parameter set `c` with its pulse constants derived from `PERIOD` (R70). -/
def Config.withPeriod (c : Config) (period : Nat) : Config :=
  { c with
    period := some period
    cmpShort := Config.defaultShort period
    cmpLong := Config.defaultLong period }

/-- The timing precondition on `RESET_SLOTS`, times in nanoseconds (R7, R169, C3): no step reads it. -/
def Config.resetRegionLongEnough (c : Config) (tBitNs tResetMinNs : Nat) : Bool :=
  decide (tResetMinNs ≤ c.resetSlots * tBitNs)

end Sys2Proof
end

