-- ==== Sys2Proof/Machine/State.lean ====
section
/-! DEFINITION. The state of the block (spec 10_state.md R20) as plain data, the reasons a step can stop, and the
state right after reset (R33). -/

namespace Sys2Proof.Machine

/-- One Pixel Store entry, in protocol channel order (R22): `ch[0]` green, `ch[1]` red, `ch[2]` blue. -/
structure Pixel where
  green : Byte
  red : Byte
  blue : Byte
  deriving DecidableEq, Repr

/-- The content of the Waveform Buffer: pairs (slot index, slot value). The smallest addressable unit is
one slot of `SLOT_W` bits (R40, R44), so the pairs hold slots, not bytes. DEDUCED, safe (assumption 5). -/
abbrev Memory := List (Nat × Nat)

/-- Where a requester's command stands (R27). -/
inductive Stage where
  /-- No command in progress. -/
  | idle
  /-- Waiting for `BUSY = 0`. -/
  | wait
  /-- Granted, encoding. -/
  | enc
  /-- Encoded; the compare value is to be forced to 0. -/
  | zero
  /-- The transfer is to be started. -/
  | arm
  deriving DecidableEq, Repr

/-- `CUR[p]`: the stage and the next slot to write (R27). -/
structure Cur where
  stage : Stage
  k : Nat
  deriving DecidableEq, Repr

/-- `XFER`: a transfer is in flight, and how many slots it has output (R29). -/
structure Xfer where
  active : Bool
  pos : Nat
  deriving DecidableEq, Repr

/-- A move of one agent (R16): the host or the environment presents a word, a requester or the engine
takes its enabled step if it has one, or the host delivers RESET (R173). -/
inductive Move where
  | input (x : Input)
  | requester (p : Nat)
  | engine
  | reset
  deriving DecidableEq, Repr

/-- Why the machine stops with a fault. -/
inductive Fault where
  /-- START_TRANSFER while a transfer is active (R133, R155, U3). Raised by the ARM step only. Safe
  (assumption 7). -/
  | startWhileActive
  deriving DecidableEq, Repr

/-- Why a move has no meaning (assumption 7). -/
inductive Refusal where
  /-- An instruction with no meaning yet; raised by `exec`'s arms only. Safe. -/
  | notModelled (mnemonic : String)
  /-- A command word on a port outside `[0, N_REQ)` (R11). Raised by every command's meaning and by the
  decoder. Safe. -/
  | noSuchPort
  /-- A command on a port whose previous command has not completed: the issue step is not enabled
  (R101, R173, U16). Raised by every command's meaning. Safe. -/
  | portInProgress
  /-- An event word with more than `ID_W` bits (R67). Raised by the decoder. Safe. -/
  | notAnEventWord
  /-- A parameter set outside its constraints (R7, R8, U11). Raised by `step`. Safe. -/
  | badConfiguration
  deriving DecidableEq, Repr

/-- The whole state of the block and of the part of its collaborator that the rules read (R20), and
three fields of the model's own: `cfg`, `agenda`, `draws`. -/
structure State where
  /-- The parameter set (R5 to R12, R26): an argument of the model, changed by no step. -/
  cfg : Config
  /-- `PIX`, the Pixel Store (R21, R22). -/
  pix : List Pixel
  /-- `WBUF`, the Waveform Buffer (R23). -/
  wbuf : Memory
  /-- `BUSY`: `false` Idle, `true` Transmitting (R24). -/
  busy : Bool
  /-- `CMP`, the timer's compare value (R25). -/
  cmp : Nat
  /-- `CUR`, one record per requester (R27). -/
  cur : List Cur
  /-- `XFER` (R29). -/
  xfer : Xfer
  /-- `TRACE`, ghost: every value written to `CMP`, oldest first (R31). -/
  trace : List Nat
  /-- The model's own: the moves already settled, next first (assumption 1). -/
  agenda : List Move
  /-- The model's own: how many free values have been drawn (assumptions 1 and 3). -/
  draws : Nat
  deriving DecidableEq, Repr

/-- The three outcomes of a step over this state. -/
abbrev Result := Host.Outcome State Fault Refusal

/-- The state right after RESET under the parameter set `c` (R33, R160). `PIX`, `WBUF` and `CMP` are
unspecified there. DESIGN CHOICE, unsafe: all zero (assumption 4). -/
def State.resetWith (c : Config) : State :=
  { cfg := c
    pix := List.replicate c.ledCount { green := 0, red := 0, blue := 0 }
    wbuf := []
    busy := false
    cmp := 0
    cur := List.replicate c.nReq { stage := .idle, k := 0 }
    xfer := { active := false, pos := 0 }
    trace := []
    agenda := []
    draws := 0 }

/-- The state right after RESET under the vectors' set TV (assumptions 2 and 4). -/
def State.reset : State := State.resetWith Config.tv

end Sys2Proof.Machine
end

