-- ==== Sys2Proof/Machine/Operands.lean ====
section
/-! DEFINITION. The operand forms: channels and bits of a pixel, the index map of the waveform slots, and the
bounds check of an index (spec 10_state.md R22, 20_memory.md R41, 30_encoding.md R69, 41_waveform_encoder.md R97). -/

namespace Sys2Proof.Machine

/-- `v[b]` for an 8-bit `v` (R14, R97). -/
def bitOf (v : Byte) (b : Nat) : Bool := v.toNat / 2 ^ b % 2 == 1

/-- `ch[c]` of an entry: 0 green, 1 red, 2 blue (R22). No rule uses a `c` above 2. -/
def Pixel.ch (px : Pixel) : Nat → Byte
  | 0 => px.green
  | 1 => px.red
  | _ => px.blue

/-- The all-off entry `(0, 0, 0)` (R82). -/
def Pixel.off : Pixel := { green := 0, red := 0, blue := 0 }

/-- The entry SET_PIXEL stores: input order (red, green, blue) reordered to protocol channel order on
the write (R60, R81). -/
def pixelOfInput (red green blue : Byte) : Pixel := { green := green, red := red, blue := blue }

/-- The 24-bit view `E24` of an entry (R22). -/
def Pixel.e24 (px : Pixel) : BitVec 24 := px.green ++ px.red ++ px.blue

/-- `led(k) = k div 24` (R69). -/
def slotLed (k : Nat) : Nat := k / 24

/-- `chan(k) = (k mod 24) div 8` (R69). -/
def slotChan (k : Nat) : Nat := k % 24 / 8

/-- `bit(k) = 7 - (k mod 8)` (R69). -/
def slotBit (k : Nat) : Nat := 7 - k % 8

/-- The slot of LED `i`, channel `c`, bit `b` (R69). -/
def slotIndex (i c b : Nat) : Nat := 24 * i + 8 * c + (7 - b)

/-- The bounds check of a pixel index, on the full 32-bit unsigned value (R41, R62). -/
def indexInRange (c : Config) (idx : BitVec 32) : Bool := decide (idx.toNat < c.ledCount)

end Sys2Proof.Machine
end

