-- ==== Sys2Proof/Machine/Ops.lean ====
section
/-! DEFINITION. The named operations over the state: one per element that the rules read or write, the two
primitives the core drives (spec 43_transfer_engine.md R127, R130), and taking the completion event (R111, R148). -/

namespace Sys2Proof.Machine

/-! ### One update per field -/

def State.withPix (s : State) (v : List Pixel) : State := { s with pix := v }
def State.withWbuf (s : State) (v : Memory) : State := { s with wbuf := v }
def State.withBusy (s : State) (v : Bool) : State := { s with busy := v }
def State.withCmp (s : State) (v : Nat) : State := { s with cmp := v }
def State.withCur (s : State) (v : List Cur) : State := { s with cur := v }
def State.withXfer (s : State) (v : Xfer) : State := { s with xfer := v }
def State.withTrace (s : State) (v : List Nat) : State := { s with trace := v }
def State.withAgenda (s : State) (v : List Move) : State := { s with agenda := v }
def State.withDraws (s : State) (v : Nat) : State := { s with draws := v }

/-! ### The waveform space -/

/-- What a slot that is not listed reads as. DESIGN CHOICE, unsafe (assumption 4): R33 leaves the
content after RESET unspecified. -/
def unlistedSlot : Nat := 0

/-- `MemRead` of one slot (R15, R43). -/
def memRead : Memory → Nat → Nat
  | [], _ => unlistedSlot
  | (j, u) :: m, k => if k = j then u else memRead m k

/-- `MemWrite` of one slot (R15, R43): the entry is kept at its place, and left out when the value is
what an unlisted slot reads as. -/
def memWrite : Memory → Nat → Nat → Memory
  | [], k, v => if v = unlistedSlot then [] else [(k, v)]
  | (j, u) :: m, k, v =>
    if k < j then (if v = unlistedSlot then (j, u) :: m else (k, v) :: (j, u) :: m)
    else if k = j then (if v = unlistedSlot then m else (k, v) :: m)
    else (j, u) :: memWrite m k v

/-- The canonical form: slot indices strictly rising and no entry equal to what an unlisted slot reads
as. -/
def Memory.wf (m : Memory) : Bool :=
  decide (m.Pairwise (fun a b => a.1 < b.1)) && m.all (fun a => a.2 != unlistedSlot)

/-- `WBUF[k]`. -/
def State.slotAt (s : State) (k : Nat) : Nat := memRead s.wbuf k

/-- `WBUF[k] <- v`. -/
def State.writeSlot (s : State) (k : Nat) (v : Nat) : State := s.withWbuf (memWrite s.wbuf k v)

/-! ### The pixel space -/

/-- The internal accessor of R85: `PIX[i]`. Every use in a rule has `i < LED_COUNT` (R41); elsewhere it reads as
off. DESIGN CHOICE, safe (assumption 14). -/
def State.pixAt (s : State) (i : Nat) : Pixel := s.pix.getD i Pixel.off

/-- The write of SET_PIXEL (R81): one entry, if the index is in range, else nothing. -/
def State.storePixel (s : State) (idx : BitVec 32) (px : Pixel) : State :=
  if indexInRange s.cfg idx then s.withPix (s.pix.set idx.toNat px) else s

/-- The zeroing of CLEAR and INIT (R82, R83), one step. -/
def State.zeroPixels (s : State) : State := s.withPix (List.replicate s.cfg.ledCount Pixel.off)

/-! ### The requesters -/

/-- The record of a requester with no command in progress (R27). -/
def Cur.ready : Cur := { stage := .idle, k := 0 }

/-- `CUR[p]`; a requester that does not exist reads as idle. DESIGN CHOICE, safe (assumption 14). -/
def State.curAt (s : State) (p : Nat) : Cur := s.cur.getD p Cur.ready

/-- `CUR[p] <- c`. -/
def State.setCur (s : State) (p : Nat) (c : Cur) : State := s.withCur (s.cur.set p c)

/-- The issue step common to all commands (R80, R101, R118): enabled exactly when the port is idle;
otherwise refused by name (U16). -/
def onIdlePort (p : Nat) (s : State) (effect : State → State) : Result :=
  if p < s.cfg.nReq then
    if (s.curAt p).stage = .idle then .next (effect s) else .refused .portInProgress
  else .refused .noSuchPort

/-- The issue of a SHOW, or of the SHOW part of an INIT: `CUR[p] <- (WAIT, 0)` (R101, R108). -/
def State.enterWait (s : State) (p : Nat) : State := s.setCur p { stage := .wait, k := 0 }

/-! ### The primitives of the collaborator -/

/-- SET_COMPARE(`v`): `CMP <- v; TRACE <- TRACE ++ [v]` (R130). The engine's write of `CMP` has the same
effect (R128). -/
def State.setCompare (s : State) (v : Nat) : State := (s.withCmp v).withTrace (s.trace ++ [v])

/-- START_TRANSFER of the whole buffer (R106, R127); a fault while a transfer is active (R133). -/
def startTransfer (s : State) : Result :=
  if s.xfer.active then .fault .startWhileActive
  else .next (s.withXfer { active := true, pos := 0 })

/-- The transfer in flight has output every slot (R129). -/
def State.transferFinished (s : State) : Bool := s.xfer.active && s.xfer.pos == s.cfg.bufLen

/-- The engine's own part of the COMPLETION step: `XFER.active <- 0` (R129); `pos` keeps its value. -/
def State.endTransfer (s : State) : State := s.withXfer { s.xfer with active := false }

/-! ### Taking the completion event -/

/-- Taking COMPLETE(`TIM_ID`), the block's one interrupt-like event (R111, R148): the compare value is
forced to 0, then `BUSY` is cleared; nothing is saved, masked or redirected. -/
def takeCompletion (s : State) : State := (s.setCompare 0).withBusy false

/-- The return from the completion handler: nothing to restore (R149). -/
def returnFromCompletion (s : State) : State := s

end Sys2Proof.Machine
end

