-- ==== Sys2Proof/Machine/Flags.lean ====
section
/-! DEFINITION. The one flag, `BUSY` (spec 10_state.md R24, R37): its two values and its one atomic
read-modify-write (spec 20_memory.md R50). -/

namespace Sys2Proof.Machine

/-- The controller is Idle (R100). -/
def State.isIdle (s : State) : Bool := !s.busy

/-- The controller is Transmitting (R100). -/
def State.isTransmitting (s : State) : Bool := s.busy

/-- `if BUSY = 0 then BUSY <- 1`, one indivisible step (R50): the state after the set, or `none` when the
flag was already set. -/
def testAndSetBusy (s : State) : Option State := if s.busy then none else some (s.withBusy true)

end Sys2Proof.Machine
end

