-- ==== Sys2Proof/Machine/Encoder.lean ====
section
/-! DEFINITION. The Waveform Encoder: the slot value function and the ENC step (spec 41_waveform_encoder.md R90 to
R92). -/

namespace Sys2Proof.Machine

/-- The compare value of one data bit: long pulse for a 1, short pulse for a 0 (R68). -/
def pulse (c : Config) (bit : Bool) : Nat := if bit then c.cmpLong else c.cmpShort

/-- `enc(k, P)`, the slot value function (R90), with `P` the content of a Pixel Store. -/
def enc (c : Config) (k : Nat) (P : List Pixel) : Nat :=
  if k < c.dataSlots then
    pulse c (bitOf ((P.getD (slotLed k) Pixel.off).ch (slotChan k)) (slotBit k))
  else 0

/-- `CUR[p]` after the ENC step at slot `k`: the last slot ends the stage (R92, C9). -/
def afterSlot (c : Config) (k : Nat) : Cur :=
  { stage := if k + 1 = c.bufLen then .zero else .enc, k := k + 1 }

/-- The ENC step of requester `p` (R92): one slot from the store as it is now. Not enabled at `k = BUF_LEN`: the
requester holds. DESIGN CHOICE, safe (assumption 14). -/
def encStep (p : Nat) (s : State) : State :=
  if (s.curAt p).k < s.cfg.bufLen then
    (s.writeSlot (s.curAt p).k (enc s.cfg (s.curAt p).k s.pix)).setCur p
      (afterSlot s.cfg (s.curAt p).k)
  else s

end Sys2Proof.Machine
end

