-- ==== Sys2Proof/Machine/Controller.lean ====
section
/-! DEFINITION. The Transmission Controller: SHOW, INIT, COMPLETE and the GRANT, ZERO and ARM steps (spec
42_transmission_controller.md R100 to R118). -/

namespace Sys2Proof.Machine

/-- SHOW, its issue step (R101): `CUR[p] <- (WAIT, 0)`. The rest of the SHOW is `requesterStep`. -/
def execShow (port : Nat) (s : State) : Result :=
  onIdlePort port s (fun s => s.enterWait port)

/-- INIT, its issue step (R108): the store is zeroed and `CUR[p] <- (WAIT, 0)`; `BUSY` is not written
(D9). -/
def execInit (port : Nat) (s : State) : Result :=
  onIdlePort port s (fun s => s.zeroPixels.enterWait port)

/-- COMPLETE(`id`) (R111, R112): the handler acts on this core's identity only; another identity changes
nothing. It tests nothing but `id`. -/
def execComplete (id : Nat) (s : State) : Result :=
  if id = s.cfg.timId then .next (returnFromCompletion (takeCompletion s)) else .next s

/-- The GRANT step of a waiting requester (R103, R50); while `BUSY = 1` it holds (R102). -/
def grantStep (p : Nat) (s : State) : State :=
  match testAndSetBusy s with
  | some t => t.setCur p { stage := .enc, k := 0 }
  | none => s

/-- The ZERO step (R105). -/
def zeroStep (p : Nat) (s : State) : State :=
  (s.setCompare 0).setCur p { stage := .arm, k := (s.curAt p).k }

/-- The ARM step and the return to the caller (R106, R107). -/
def armStep (p : Nat) (s : State) : Result :=
  match startTransfer s with
  | .next t => .next (t.setCur p Cur.ready)
  | .fault r => .fault r
  | .refused r => .refused r

/-- The step of requester `p` (R118): the one its stage enables; with none enabled it holds, which
the model shows as a step that changes nothing. DESIGN CHOICE, safe (assumption 1). -/
def requesterStep (p : Nat) (s : State) : Result :=
  match (s.curAt p).stage with
  | .idle => .next s
  | .wait => .next (grantStep p s)
  | .enc => .next (encStep p s)
  | .zero => .next (zeroStep p s)
  | .arm => armStep p s

end Sys2Proof.Machine
end

