-- ==== Sys2Proof/Machine/PixelStore.lean ====
section
/-! DEFINITION. The Pixel Store commands SET_PIXEL and CLEAR (spec 40_pixel_store.md R80 to R84) and the reserved
words (spec 30_encoding.md R64). -/

namespace Sys2Proof.Machine

/-- SET_PIXEL (R81): the entry in range becomes (green, red, blue); out of range, nothing. -/
def execSetPixel (port : Nat) (idx : BitVec 32) (red green blue : Byte) (s : State) : Result :=
  onIdlePort port s (fun s => s.storePixel idx (pixelOfInput red green blue))

/-- CLEAR (R82): every entry becomes (0, 0, 0) in one step. -/
def execClear (port : Nat) (s : State) : Result :=
  onIdlePort port s (fun s => s.zeroPixels)

/-- RESERVED (R64): accepted, changes no state, complete at once; the opcode plays no part. -/
def execReserved (port : Nat) (_op : BitVec 4) (s : State) : Result :=
  onIdlePort port s (fun s => s)

end Sys2Proof.Machine
end

