-- ==== Sys2Proof/Machine/Dispatch.lean ====
section
/-! DEFINITION. One arm per instruction: the meaning it calls. -/

namespace Sys2Proof.Machine

def exec (i : Instr) (s : State) : Host.Outcome State Fault Refusal :=
  match i with
  | .init port => Sys2Proof.Machine.execInit port s
  | .setPixel port idx red green blue => Sys2Proof.Machine.execSetPixel port idx red green blue s
  | .clear port => Sys2Proof.Machine.execClear port s
  | .showCmd port => Sys2Proof.Machine.execShow port s
  | .reserved port op => Sys2Proof.Machine.execReserved port op s
  | .complete id => Sys2Proof.Machine.execComplete id s

end Sys2Proof.Machine
end

