-- ==== Sys2Proof/Machine/Engine.lean ====
section
/-! DEFINITION. The transfer engine as far as its contract exposes it: the SLOT step and the COMPLETION step (spec
43_transfer_engine.md R127 to R129). -/

namespace Sys2Proof.Machine

/-- The SLOT step (R128): the next slot becomes the compare value. -/
def slotStep (s : State) : State :=
  (s.setCompare (s.slotAt s.xfer.pos)).withXfer { active := s.xfer.active, pos := s.xfer.pos + 1 }

/-- What the engine does in the step in which the notification `id` is delivered (R129): if it is this
core's and the transfer has output every slot, the transfer ends; otherwise nothing. A COMPLETE(`TIM_ID`)
with no finished transfer behind it is a breach of the contract and ends nothing (U2). DESIGN CHOICE, safe
(assumption 6). -/
def endFinishedTransfer (id : Nat) (s : State) : State :=
  if id = s.cfg.timId ∧ s.transferFinished then s.endTransfer else s

/-- The COMPLETION step (R129): the transfer ends and COMPLETE(`TIM_ID`) is delivered, one atomic step. -/
def completionStep (s : State) : Result :=
  execComplete s.cfg.timId (endFinishedTransfer s.cfg.timId s)

/-- The engine's step (R118): SLOT or COMPLETION, whichever is enabled; otherwise it does nothing
(assumptions 1 and 14). -/
def engineStep (s : State) : Result :=
  if s.xfer.active then
    if s.xfer.pos < s.cfg.bufLen then .next (slotStep s)
    else if s.xfer.pos = s.cfg.bufLen then completionStep s
    else .next s
  else .next s

end Sys2Proof.Machine
end

