-- ==== Sys2Proof/Machine/Schedule.lean ====
section
/-! DEFINITION. Which move comes next (spec 00_scope.md R16, 20_memory.md R47) and the RESET step (spec
70_reset_and_hazards.md R160). -/

namespace Sys2Proof.Machine

/-- A command of any word on port `p` if the port is idle (R173); otherwise the step of its requester, since
the host has no command for it (U16). -/
def freeCommand (s : State) (p : Nat) : Move :=
  if (s.curAt p).stage = .idle then .input (.command p (Config.freeWord s.draws)) else .requester p

/-- A foreign completion event (R112, R173); this core's own identity comes with the engine's COMPLETION step
only (R129). -/
def freeEvent (c : Config) (id : Nat) : Move := if id = c.timId then .engine else .input (.event id)

/-- A free choice among the moves the spec has at any time: a requester's step, the engine's, a command on an
idle port, a foreign completion event, RESET (R16, R109, R118, R173). DESIGN CHOICE, safe (assumption 1). -/
def freeMove (s : State) : Move :=
  match Config.freeAgent s.draws % 5 with
  | 0 => .requester (Config.freePort s.draws % s.cfg.nReq)
  | 1 => .engine
  | 2 => freeCommand s (Config.freePort s.draws % s.cfg.nReq)
  | 3 => freeEvent s.cfg (Config.freeIdentity s.draws % 2 ^ s.cfg.idW)
  | _ => .reset

/-- The next move: the agenda's first, or a free choice when the agenda is empty. -/
def nextMove (s : State) : Move :=
  match s.agenda with
  | [] => freeMove s
  | m :: _ => m

/-- The state once the next move is taken up: it has left the agenda, or one free value is drawn. -/
def takeUp (s : State) : State :=
  match s.agenda with
  | [] => s.withDraws (s.draws + 1)
  | _ :: rest => s.withAgenda rest

/-- Any content of the Pixel Store (R33). -/
def freePix (c : Config) (draw : Nat) : List Pixel :=
  (List.range c.ledCount).map fun i =>
    { green := Config.freeChannel draw i 0
      red := Config.freeChannel draw i 1
      blue := Config.freeChannel draw i 2 }

/-- Any content of the first `n` slots of the Waveform Buffer (R33). -/
def freeWbuf (c : Config) (draw : Nat) : Nat → Memory
  | 0 => []
  | n + 1 => memWrite (freeWbuf c draw n) n (Config.freeSlot draw n % 2 ^ c.slotW)

/-- RESET (R33, R160): Idle, every requester idle, no transfer, an empty trace; `PIX`, `WBUF` and `CMP`
any value, drawn afresh (U6; assumption 3). The agenda stays. DESIGN CHOICE, safe (assumption 15). -/
def resetStep (s : State) : State :=
  { cfg := s.cfg
    pix := freePix s.cfg s.draws
    wbuf := freeWbuf s.cfg s.draws s.cfg.bufLen
    busy := false
    cmp := Config.freeCompare s.draws % 2 ^ s.cfg.slotW
    cur := List.replicate s.cfg.nReq Cur.ready
    xfer := { active := false, pos := 0 }
    trace := []
    agenda := s.agenda
    draws := s.draws + 1 }

end Sys2Proof.Machine
end

