-- ==== Sys2Proof/Machine/Run.lean ====
section
/-! DEFINITION. What one move does (spec 42_transmission_controller.md R118). -/

namespace Sys2Proof.Machine

/-- The refusal that a decoding error becomes. -/
def refusalOf : DecodeError → Refusal
  | .noSuchPort => .noSuchPort
  | .notAnEventWord => .notAnEventWord

/-- What the engine does beside the instruction in the same atomic step: its end of the transfer when
the instruction is the transfer's completion (R129), otherwise nothing. -/
def besideInstr (i : Instr) (s : State) : State :=
  match i with
  | .complete id => endFinishedTransfer id s
  | .init _ => s
  | .setPixel _ _ _ _ _ => s
  | .clear _ => s
  | .showCmd _ => s
  | .reserved _ _ => s

/-- The step that an arriving word causes: the decoded instruction is executed. -/
def arrive (x : Input) (s : State) : Result :=
  match decode s.cfg x with
  | .ok i => exec i (besideInstr i s)
  | .error e => .refused (refusalOf e)

/-- The step of one move, taken up already. -/
def runMove (m : Move) (s : State) : Result :=
  match m with
  | .input x => arrive x s
  | .requester p => requesterStep p s
  | .engine => engineStep s
  | .reset => .next (resetStep s)

end Sys2Proof.Machine
end

