-- ==== Sys2Proof/Machine/Step.lean ====
section
/-! DEFINITION. One step of the machine: the next move of one agent (spec 00_scope.md R16, 20_memory.md R47), and
where the outside world presents the next instruction. -/

namespace Sys2Proof.Machine

/-- One atomic step. A parameter set outside its constraints is refused (U11). DESIGN CHOICE, safe
(assumption 7). -/
def step (s : State) : Host.Outcome State Fault Refusal :=
  if s.cfg.wf then runMove (nextMove s) (takeUp s) else .refused .badConfiguration

/-- The state in which the outside world presents the opcode table's word `w` next: it heads the agenda.
The block fetches nothing itself (R27); a program is the sequence of words presented.
DESIGN CHOICE, safe (assumption 8). -/
def State.withFetchWord (s : State) (nbits w : Nat) : State :=
  match tableInput nbits w with
  | some x => s.withAgenda (.input x :: s.agenda)
  | none => s

end Sys2Proof.Machine
end

