-- ==== Sys2Proof/Machine/Assembler.lean ====
section
/-! DEFINITION. The textual form of commands and events (spec 30_encoding.md R65) and the expansion of `init`
(R66). One line becomes one move of the agenda. -/

namespace Sys2Proof.Machine

/-- A finished token, if it holds a character. -/
def asmFlush (acc : List Char) : List (List Char) := if acc = [] then [] else [acc]

/-- The tokens of a line: blanks separate them, `,` and `:` stand alone, `;` opens a comment.
DESIGN CHOICE, safe (assumption 12). -/
def asmTokens : List Char → List Char → List (List Char)
  | [], acc => asmFlush acc
  | c :: cs, acc =>
    if c = ';' then asmFlush acc
    else if c = ' ' ∨ c = '\t' then asmFlush acc ++ asmTokens cs []
    else if c = ',' ∨ c = ':' then asmFlush acc ++ [c] :: asmTokens cs []
    else asmTokens cs (acc ++ [c])

/-- The value of one digit of a base up to 16. -/
def asmDigit (base : Nat) (c : Char) : Option Nat :=
  let v :=
    if '0' ≤ c ∧ c ≤ '9' then c.toNat - '0'.toNat
    else if 'a' ≤ c ∧ c ≤ 'f' then c.toNat - 'a'.toNat + 10
    else if 'A' ≤ c ∧ c ≤ 'F' then c.toNat - 'A'.toNat + 10
    else base
  if v < base then some v else none

/-- The value of a digit string, continuing from `v`. -/
def asmDigits (base : Nat) : List Char → Nat → Option Nat
  | [], v => some v
  | c :: cs, v => (asmDigit base c).bind fun d => asmDigits base cs (v * base + d)

/-- A number: decimal, or hexadecimal after `0x` (R65). -/
def asmNumber : List Char → Option Nat
  | [] => none
  | '0' :: 'x' :: [] => none
  | '0' :: 'x' :: c :: cs => asmDigits 16 (c :: cs) 0
  | c :: cs => asmDigits 10 (c :: cs) 0

/-- An unsigned operand below `2 ^ n`. -/
def asmField (n : Nat) (cs : List Char) : Option (BitVec n) :=
  (asmNumber cs).bind fun v => if v < 2 ^ n then some (BitVec.ofNat n v) else none

/-- The command of a line without its port prefix. -/
def asmCommand (port : Nat) : List (List Char) → Option Instr
  | [m] =>
    if m = ['i', 'n', 'i', 't'] then some (.init port)
    else if m = ['c', 'l', 'e', 'a', 'r'] then some (.clear port)
    else if m = ['s', 'h', 'o', 'w'] then some (.showCmd port)
    else none
  | [m, idx, c1, red, c2, green, c3, blue] =>
    if m = ['s', 'e', 't', '_', 'p', 'i', 'x', 'e', 'l'] ∧ c1 = [','] ∧ c2 = [','] ∧ c3 = [','] then
      (asmField 32 idx).bind fun i => (asmField 8 red).bind fun r =>
        (asmField 8 green).bind fun g => (asmField 8 blue).map fun b => .setPixel port i r g b
    else none
  | _ => none

/-- The move of a tokenised line: an event, or a command on the port of its prefix, port 0 without one
(R65). The `n` of `p<n>:` is read as decimal digits only: R65 does not say whether it may be hexadecimal.
DESIGN CHOICE, safe (assumption 12). -/
def asmMove : List (List Char) → Option Move
  | [['r', 'e', 's', 'e', 't']] => some .reset
  | [['c', 'o', 'm', 'p', 'l', 'e', 't', 'e'], n] => (asmNumber n).map fun id => .input (.event id)
  | ('p' :: n) :: [':'] :: rest =>
    (asmDigits 10 n 0).bind fun port =>
      if n = [] then none else (asmCommand port rest).map fun i => .input (encode i)
  | toks => (asmCommand 0 toks).map fun i => .input (encode i)

/-- Assembles one line. -/
def assemble (line : List Char) : Option Move := asmMove (asmTokens line [])

/-- The two-command expansion of INIT, the one pseudo-instruction, as a toolchain may make it (R66); any other
instruction stands for itself. -/
def expandInit : Instr → List Instr
  | .init port => [.clear port, .showCmd port]
  | .setPixel port idx red green blue => [.setPixel port idx red green blue]
  | .clear port => [.clear port]
  | .showCmd port => [.showCmd port]
  | .reserved port op => [.reserved port op]
  | .complete id => [.complete id]

end Sys2Proof.Machine
end

