-- ==== Sys2Proof/Machine/ByteView.lean ====
section
/-! DEFINITION. The byte-addressed view of the two arrays (spec 20_memory.md R44, R45, D18): an observation of the
state for an implementation that maps them into byte memory. No step reads it. DESIGN CHOICE, safe (assumption 13). -/

namespace Sys2Proof.Machine

/-- Bytes per slot, `SLOT_W / 8`; the view exists when `SLOT_W` is a multiple of 8 (R44). -/
def slotBytes (c : Config) : Nat := c.slotW / 8

/-- Byte `j` of a slot value, least significant first (R44: little-endian). -/
def slotByte (v : Nat) (j : Nat) : Byte := BitVec.ofNat 8 (v / 256 ^ j)

/-- `base` may hold the Waveform Buffer: `SLOT_W` is a multiple of 8 and `base` is aligned to the bytes of
a slot (R44, R45). -/
def wbufBaseOk (c : Config) (base : Nat) : Bool := c.slotW % 8 == 0 && base % slotBytes c == 0

/-- The byte at address `a` of the Waveform Buffer mapped at `base`; none outside it (R44, R45). -/
def State.wbufByte (s : State) (base a : Nat) : Option Byte :=
  if wbufBaseOk s.cfg base ∧ base ≤ a ∧ a - base < s.cfg.bufLen * slotBytes s.cfg then
    some (slotByte (s.slotAt ((a - base) / slotBytes s.cfg)) ((a - base) % slotBytes s.cfg))
  else none

/-- The byte at address `a` of the Pixel Store mapped at `pixbase`: 3 bytes an entry, green, red, blue;
none outside it (R44). -/
def State.pixByte (s : State) (pixbase a : Nat) : Option Byte :=
  if pixbase ≤ a ∧ a - pixbase < 3 * s.cfg.ledCount then
    some ((s.pixAt ((a - pixbase) / 3)).ch ((a - pixbase) % 3))
  else none

end Sys2Proof.Machine
end

