-- ==== Sys2Proof/Safety.lean ====
section
/-! DEFINITION. What counts as a good state and a good run: the shape of the state, the protocol of spec 10_state.md
R34, the environment's contract (spec 43_transfer_engine.md R129), final states (spec 60_exceptions.md R156) and
weak fairness (spec 42_transmission_controller.md R110). -/

namespace Sys2Proof.Machine

/-- The stages of the owner of the transfer (R28): granted and not yet returned. -/
def Stage.owning : Stage → Bool
  | .idle => false
  | .wait => false
  | .enc => true
  | .zero => true
  | .arm => true

/-- Requester `p` is the owner (R28): read off `CUR`, not a state element. -/
def State.owns (s : State) (p : Nat) : Bool := (s.curAt p).stage.owning

/-- Requester `p` waits for `BUSY = 0` (R102). -/
def State.waits (s : State) (p : Nat) : Bool := (s.curAt p).stage == .wait

/-- A final state (R156): every requester idle, `BUSY = 0`, no transfer in flight. -/
def State.final (s : State) : Bool :=
  s.cur.all (fun c => c.stage == .idle) && !s.busy && !s.xfer.active

/-- The shape of the state: the parameters meet their constraints, each array has its length, each slot
value its width, each index its range (R8, R20 to R29, R31). -/
structure State.Wf (s : State) : Prop where
  cfgOk : s.cfg.wf = true
  pixLength : s.pix.length = s.cfg.ledCount
  curLength : s.cur.length = s.cfg.nReq
  wbufWf : Memory.wf s.wbuf = true
  wbufRange : ∀ a ∈ s.wbuf, a.1 < s.cfg.bufLen ∧ a.2 < 2 ^ s.cfg.slotW
  cmpRange : s.cmp < 2 ^ s.cfg.slotW
  traceRange : ∀ v ∈ s.trace, v < 2 ^ s.cfg.slotW
  posRange : s.xfer.pos ≤ s.cfg.bufLen
  kRange : ∀ c ∈ s.cur, c.k ≤ s.cfg.bufLen
  encRange : ∀ c ∈ s.cur, c.stage = .enc → c.k < s.cfg.bufLen

/-- Slot `k` holds one of the three slot values, and 0 in the reset region (R23, R34 item 5, R68). -/
def State.slotEncoded (s : State) (k : Nat) : Prop :=
  (s.slotAt k = 0 ∨ s.slotAt k = s.cfg.cmpShort ∨ s.slotAt k = s.cfg.cmpLong) ∧
    (s.cfg.dataSlots ≤ k → s.slotAt k = 0)

/-- The invariants of R34. `idleQuiet` is its item 1, `oneOwner` and `ownerBusy` item 2, `activeBusy`
item 3; `encodedPart`, `encodedWhole` and `activeEncoded` carry item 5 through the encode. -/
structure State.Protocol (s : State) : Prop where
  idleQuiet : s.busy = false → (∀ p, s.owns p = false) ∧ s.xfer.active = false
  oneOwner : ∀ p q, s.owns p = true → s.owns q = true → p = q
  ownerBusy : ∀ p, s.owns p = true → s.busy = true ∧ s.xfer.active = false
  activeBusy : s.xfer.active = true → s.busy = true ∧ ∀ p, s.owns p = false
  encodedPart : ∀ p, (s.curAt p).stage = .enc → ∀ k, k < (s.curAt p).k → s.slotEncoded k
  encodedWhole : ∀ p, (s.curAt p).stage = .zero ∨ (s.curAt p).stage = .arm →
    ∀ k, k < s.cfg.bufLen → s.slotEncoded k
  activeEncoded : s.xfer.active = true → ∀ k, k < s.cfg.bufLen → s.slotEncoded k

/-- Transmitting lasts from the grant to the completion (R100): while `BUSY = 1` there is an owner or a
transfer in flight. -/
def State.BusyAccounted (s : State) : Prop :=
  s.busy = true → (∃ p, s.owns p = true) ∨ s.xfer.active = true

/-- The line is low while Idle, as far as `TRACE` shows it: the last value written, if any, is 0 (R156). -/
def State.IdleLow (s : State) : Prop :=
  s.busy = false → ∀ v, s.trace.getLast? = some v → v = 0

/-- The compare value in force is the last one traced (R31, R130). -/
def State.CompareTraced (s : State) : Prop := ∀ v, s.trace.getLast? = some v → v = s.cmp

/-- The move `m` keeps the environment's contract in state `s` (R129): COMPLETE(`TIM_ID`) comes only when the
transfer in flight has output every slot. -/
def State.KeepsContract (s : State) (m : Move) : Prop :=
  m = .input (.event s.cfg.timId) → s.transferFinished = true

/-- The environment keeps its contract in this step (R129). -/
def State.EnvironmentKeeps (s : State) : Prop := s.KeepsContract (nextMove s)

/-- The moves the spec has in state `s` (R118, R173): a command on an idle port, a foreign completion event, a
completion of a finished transfer, the step of a requester or of the engine, RESET. -/
def State.MayComeNext (s : State) : Move → Prop
  | .input (.command p _) => p < s.cfg.nReq ∧ (s.curAt p).stage = .idle
  | .input (.event id) => id < 2 ^ s.cfg.idW ∧ (id = s.cfg.timId → s.transferFinished = true)
  | .requester p => p < s.cfg.nReq
  | .engine => True
  | .reset => True

/-- `k` steps, stopping at the first fault or refusal (the host's `Core.run` of this machine). -/
def runSteps : Nat → State → Result
  | 0, s => .next s
  | k + 1, s =>
    match step s with
    | .next t => runSteps k t
    | .fault r => .fault r
    | .refused r => .refused r

/-- The moves `ms` one after another, stopping at the first fault or refusal. -/
def runMoves : List Move → State → Result
  | [], s => .next s
  | m :: ms, s =>
    match runMove m s with
    | .next t => runMoves ms t
    | .fault r => .fault r
    | .refused r => .refused r

/-- `s` with `m` as its next move, whatever is to come after it and however many free values were drawn. -/
def State.facing (s : State) (m : Move) (rest : List Move) (draws : Nat) : State :=
  { s with agenda := m :: rest, draws := draws }

/-- An infinite run: each state comes from the one before it by the step of the move named, so any agent, the
host and the environment among them, may move at any time and without end (R16, R173). -/
def IsRun (moves : Nat → Move) (run : Nat → State) : Prop :=
  ∀ n, ∃ rest draws, step ((run n).facing (moves n) rest draws) = .next (run (n + 1))

/-- The GRANT step of some waiter is enabled (R103). -/
def State.GrantEnabled (s : State) : Prop := s.busy = false ∧ ∃ p, s.waits p = true

/-- Weak fairness (R110): an enabled ENC, ZERO or ARM step, some enabled GRANT step, and an enabled step
of the engine are each taken in the end, unless they stop being enabled. No fairness between waiters.
DEDUCED, safe (assumption 11). -/
structure WeaklyFair (moves : Nat → Move) (run : Nat → State) : Prop where
  owner : ∀ n p, (run n).owns p = true →
    ∃ m, n ≤ m ∧ (moves m = .requester p ∨ (run m).owns p = false)
  grant : ∀ n, (run n).GrantEnabled →
    ∃ m, n ≤ m ∧ ((∃ p, moves m = .requester p ∧ (run m).waits p = true) ∨ ¬ (run m).GrantEnabled)
  engine : ∀ n, (run n).xfer.active = true →
    ∃ m, n ≤ m ∧ (moves m = .engine ∨ (run m).xfer.active = false)

end Sys2Proof.Machine
end

