-- ==== Sys2Proof/Certificates/Slice0/Obligations.lean ====
section
/-! DEFINITION. The statements for the provers, one per numbered rule or group of rules of the spec. -/

open Sys2Proof Sys2Proof.Machine

/-! ### Encodings (spec 30_encoding.md) -/

/-- R60 to R63, R67: the decoder gives back every well-formed instruction from its canonical input, with
every operand at every value. -/
def Obligations.DecodeOfEncode : Prop :=
  ∀ (c : Config) (i : Instr), i.wf c = true → decode c (encode i) = .ok i

/-- R73, with the fields of R60 as quotients: every 64-bit word on a port that exists decodes, by its four
top bits alone. -/
def Obligations.EveryWordDecodes : Prop :=
  ∀ (c : Config) (p : Nat) (w : CommandWord), p < c.nReq →
    decode c (.command p w) = .ok (
      if w.toNat / 2 ^ 60 = 1 then .init p
      else if w.toNat / 2 ^ 60 = 2 then
        .setPixel p (BitVec.ofNat 32 (w.toNat / 2 ^ 24)) (BitVec.ofNat 8 (w.toNat / 2 ^ 16))
          (BitVec.ofNat 8 (w.toNat / 2 ^ 8)) (BitVec.ofNat 8 w.toNat)
      else if w.toNat / 2 ^ 60 = 3 then .clear p
      else if w.toNat / 2 ^ 60 = 4 then .showCmd p
      else .reserved p (BitVec.ofNat 4 (w.toNat / 2 ^ 60)))

/-- R11, R67: the decoder gives well-formed instructions only, and rejects by name exactly a command on a
port that does not exist and an event word wider than `ID_W`. -/
def Obligations.DecoderAcceptsExactlyTheEncodable : Prop :=
  (∀ (c : Config) (x : Input) (i : Instr), decode c x = .ok i → i.wf c = true) ∧
  (∀ (c : Config) (p : Nat) (w : CommandWord),
    decode c (.command p w) = .error .noSuchPort ↔ c.nReq ≤ p) ∧
  (∀ (c : Config) (w : Nat), decode c (.event w) = .error .notAnEventWord ↔ 2 ^ c.idW ≤ w) ∧
  (∀ (c : Config) (w : Nat), w < 2 ^ c.idW → decode c (.event w) = .ok (.complete w))

/-- R63: the reserved field never matters, and the operand fields matter to SET_PIXEL only. -/
def Obligations.IgnoredFieldsDoNotMatter : Prop :=
  ∀ (p : Nat) (w w' : CommandWord), fieldOp w = fieldOp w' →
    (fieldOp w = 0x2#4 → fieldIdx w = fieldIdx w' ∧ fieldRed w = fieldRed w' ∧
      fieldGreen w = fieldGreen w' ∧ fieldBlue w = fieldBlue w') →
    decodeCommand p w = decodeCommand p w'

/-- Spec 95_test_vectors.md C1 to C14 and the four event words, under the set TV and on port 0. Which set and
which port a table word is read with are the model's choice (assumptions 2 and 8). -/
def Obligations.VectorWordsDecode : Prop :=
  decodeTableWord 64 0x1000000000000000 = some (.init 0) ∧
  decodeTableWord 64 0x2000000000FF0000 = some (.setPixel 0 0 255 0 0) ∧
  decodeTableWord 64 0x2000000001123456 = some (.setPixel 0 1 0x12 0x34 0x56) ∧
  decodeTableWord 64 0x20000000030000FF = some (.setPixel 0 3 0 0 255) ∧
  decodeTableWord 64 0x2000000004010203 = some (.setPixel 0 4 1 2 3) ∧
  decodeTableWord 64 0x20FFFFFFFF0A0B0C = some (.setPixel 0 0xFFFFFFFF 10 11 12) ∧
  decodeTableWord 64 0x3000000000000000 = some (.clear 0) ∧
  decodeTableWord 64 0x4000000000000000 = some (.showCmd 0) ∧
  decodeTableWord 64 0x4FFFFFFFFFFFFFFF = some (.showCmd 0) ∧
  decodeTableWord 64 0x2F00000000FF0000 = some (.setPixel 0 0 255 0 0) ∧
  decodeTableWord 64 0x0000000000000000 = some (.reserved 0 0) ∧
  decodeTableWord 64 0x5000000000000000 = some (.reserved 0 5) ∧
  decodeTableWord 64 0xFFFFFFFFFFFFFFFF = some (.reserved 0 0xF) ∧
  decodeTableWord 64 0x3000000000ABCDEF = some (.clear 0) ∧
  decodeTableWord 8 0x01 = some (.complete 1) ∧
  decodeTableWord 8 0x00 = some (.complete 0) ∧
  decodeTableWord 8 0x07 = some (.complete 7) ∧
  decodeTableWord 8 0xFF = some (.complete 255)

/-! ### What a step does -/

/-- The next input at the head of the agenda decodes to `i`: the step is `exec i`, once the input has left
the agenda; beside it, in the same atomic step, the engine ends a transfer whose completion `i` is (R129).
The agenda is the model's own (assumption 1). -/
def Obligations.StepRunsDecodedInstruction : Prop :=
  ∀ (s : State) (x : Input) (rest : List Move) (i : Instr), s.cfg.wf = true →
    s.agenda = .input x :: rest → decode s.cfg x = .ok i →
    step s = exec i (besideInstr i { s with agenda := rest }) ∧
    ((∀ id, i ≠ .complete id) → besideInstr i { s with agenda := rest } = { s with agenda := rest }) ∧
    (i = .complete s.cfg.timId ∧ s.xfer.active = true ∧ s.xfer.pos = s.cfg.bufLen →
      besideInstr i { s with agenda := rest } =
        { s with agenda := rest, xfer := { active := false, pos := s.xfer.pos } }) ∧
    (i = .complete s.cfg.timId ∧ ¬ (s.xfer.active = true ∧ s.xfer.pos = s.cfg.bufLen) →
      besideInstr i { s with agenda := rest } = { s with agenda := rest }) ∧
    (∀ id, id ≠ s.cfg.timId → i = .complete id →
      besideInstr i { s with agenda := rest } = { s with agenda := rest })

/-- R16, R47, R118, R173: the step is the next move's, whichever agent it belongs to; with nothing settled, it
is some move the spec has in that state, freely chosen; and under the protocol every move the spec has in a
state answers a next state. The agenda and the free choice are the model's own (assumption 1). -/
def Obligations.StepTakesTheNextMove : Prop :=
  (∀ (s : State) (m : Move) (rest : List Move), s.cfg.wf = true → s.agenda = m :: rest →
    step s = runMove m { s with agenda := rest }) ∧
  (∀ (s : State) (p : Nat) (rest : List Move), s.cfg.wf = true → s.agenda = .requester p :: rest →
    step s = requesterStep p { s with agenda := rest }) ∧
  (∀ (s : State) (rest : List Move), s.cfg.wf = true → s.agenda = .engine :: rest →
    step s = engineStep { s with agenda := rest }) ∧
  (∀ s : State, s.cfg.wf = true → s.agenda = [] →
    s.MayComeNext (nextMove s) ∧ step s = runMove (nextMove s) { s with draws := s.draws + 1 }) ∧
  (∀ s : State, s.cfg.wf = true → s.Protocol → s.MayComeNext (nextMove s) → ∃ t, step s = .next t)

/-- U11: a parameter set outside its constraints is refused by name. -/
def Obligations.BadConfigurationIsRefused : Prop :=
  ∀ s : State, s.cfg.wf = false → step s = .refused .badConfiguration

/-! ### The Pixel Store commands (spec 40_pixel_store.md) -/

/-- R81: on an idle port SET_PIXEL completes at once; in range, entry `idx` becomes (green, red, blue) and
nothing else changes; out of range, nothing changes. -/
def Obligations.SetPixelStoresInChannelOrder : Prop :=
  ∀ (s : State) (p : Nat) (idx : BitVec 32) (r g b : Byte), p < s.cfg.nReq →
    (s.curAt p).stage = .idle → s.pix.length = s.cfg.ledCount →
    ∃ t, exec (.setPixel p idx r g b) s = .next t ∧
      (idx.toNat < s.cfg.ledCount →
        t = { s with pix := t.pix } ∧ t.pix.length = s.cfg.ledCount ∧
        t.pixAt idx.toNat = { green := g, red := r, blue := b } ∧
        ∀ j, j ≠ idx.toNat → t.pixAt j = s.pixAt j) ∧
      (s.cfg.ledCount ≤ idx.toNat → t = s)

/-- R82: on an idle port CLEAR makes every entry (0, 0, 0) and changes nothing else. -/
def Obligations.ClearZeroesTheStore : Prop :=
  ∀ (s : State) (p : Nat), p < s.cfg.nReq → (s.curAt p).stage = .idle →
    exec (.clear p) s =
      .next { s with pix := List.replicate s.cfg.ledCount { green := 0, red := 0, blue := 0 } }

/-- R64: a reserved word on an idle port is accepted and changes nothing. -/
def Obligations.ReservedWordDoesNothing : Prop :=
  ∀ (s : State) (p : Nat) (w : CommandWord), p < s.cfg.nReq → (s.curAt p).stage = .idle →
    w.toNat / 2 ^ 60 ≠ 1 → w.toNat / 2 ^ 60 ≠ 2 → w.toNat / 2 ^ 60 ≠ 3 → w.toNat / 2 ^ 60 ≠ 4 →
    ∃ op, decode s.cfg (.command p w) = .ok (.reserved p op) ∧ exec (.reserved p op) s = .next s

/-- R80: the frame of SET_PIXEL, CLEAR and RESERVED: only the Pixel Store may change, of it only the entry
SET_PIXEL names, and no slot of the Waveform Buffer. -/
def Obligations.PixelStoreCommandsFrame : Prop :=
  ∀ (s t : State) (p : Nat) (idx : BitVec 32) (r g b : Byte) (op : BitVec 4),
    (exec (.setPixel p idx r g b) s = .next t →
      t = { s with pix := t.pix } ∧ (∀ j, j ≠ idx.toNat → t.pixAt j = s.pixAt j) ∧
      ∀ k, t.slotAt k = s.slotAt k) ∧
    (exec (.clear p) s = .next t → t = { s with pix := t.pix } ∧ ∀ k, t.slotAt k = s.slotAt k) ∧
    (exec (.reserved p op) s = .next t → t = s)

/-! ### SHOW, INIT and COMPLETE (spec 42_transmission_controller.md) -/

/-- R101: on an idle port SHOW completes its issue step: the requester waits, and nothing else changes. -/
def Obligations.ShowEntersWait : Prop :=
  ∀ (s : State) (p : Nat), p < s.cfg.nReq → (s.curAt p).stage = .idle → s.cur.length = s.cfg.nReq →
    ∃ t, exec (.showCmd p) s = .next t ∧ t = { s with cur := t.cur } ∧
      t.curAt p = { stage := .wait, k := 0 } ∧ ∀ q, q ≠ p → t.curAt q = s.curAt q

/-- R108: on an idle port INIT zeroes the store and the requester waits; `BUSY` and all else keep their
values. -/
def Obligations.InitZeroesAndEntersWait : Prop :=
  ∀ (s : State) (p : Nat), p < s.cfg.nReq → (s.curAt p).stage = .idle → s.cur.length = s.cfg.nReq →
    ∃ t, exec (.init p) s = .next t ∧ t = { s with cur := t.cur, pix := t.pix } ∧
      t.pix = List.replicate s.cfg.ledCount { green := 0, red := 0, blue := 0 } ∧
      t.curAt p = { stage := .wait, k := 0 } ∧ ∀ q, q ≠ p → t.curAt q = s.curAt q

/-- R111, R112: COMPLETE with this core's identity forces `CMP` to 0, which is traced, and clears `BUSY`;
with another identity it changes nothing. It completes in every state. -/
def Obligations.CompleteForcesLowAndClearsBusy : Prop :=
  ∀ (s : State) (id : Nat),
    (id = s.cfg.timId →
      exec (.complete id) s = .next { s with cmp := 0, trace := s.trace ++ [0], busy := false }) ∧
    (id ≠ s.cfg.timId → exec (.complete id) s = .next s)

/-- The frame of SHOW, INIT and COMPLETE: SHOW changes the record of its own requester only, INIT that and
the Pixel Store, COMPLETE only `CMP`, `TRACE` and `BUSY`; no slot changes. -/
def Obligations.ControllerCommandsFrame : Prop :=
  ∀ (s t : State) (p id : Nat),
    (exec (.showCmd p) s = .next t →
      t = { s with cur := t.cur } ∧ (∀ q, q ≠ p → t.curAt q = s.curAt q) ∧
      ∀ k, t.slotAt k = s.slotAt k) ∧
    (exec (.init p) s = .next t →
      t = { s with cur := t.cur, pix := t.pix } ∧ (∀ q, q ≠ p → t.curAt q = s.curAt q) ∧
      ∀ k, t.slotAt k = s.slotAt k) ∧
    (exec (.complete id) s = .next t →
      t = { s with cmp := t.cmp, trace := t.trace, busy := t.busy } ∧ ∀ k, t.slotAt k = s.slotAt k)

/-- R66: INIT is CLEAR and then SHOW by the same requester. -/
def Obligations.InitIsClearThenShow : Prop :=
  ∀ (s t : State) (p : Nat), exec (.init p) s = .next t ↔
    ∃ u, exec (.clear p) s = .next u ∧ exec (.showCmd p) u = .next t

/-- R101, U16: a command on a port whose command is in progress, or on a port that does not exist, is
refused by name. -/
def Obligations.CommandNeedsAnIdlePort : Prop :=
  ∀ (s : State) (p : Nat) (idx : BitVec 32) (r g b : Byte) (op : BitVec 4) (i : Instr),
    i = .init p ∨ i = .setPixel p idx r g b ∨ i = .clear p ∨ i = .showCmd p ∨ i = .reserved p op →
    (p < s.cfg.nReq → (s.curAt p).stage ≠ .idle → exec i s = .refused .portInProgress) ∧
    (s.cfg.nReq ≤ p → exec i s = .refused .noSuchPort)

/-- R147: the completion event and a command commute: both orders give the same state. -/
def Obligations.CompletionCommutesWithCommands : Prop :=
  ∀ (s a b : State) (i : Instr) (id : Nat), (∀ id', i ≠ .complete id') →
    exec (.complete id) s = .next a → exec i s = .next b →
    ∃ t, exec i a = .next t ∧ exec (.complete id) b = .next t

/-! ### The steps of a requester -/

/-- R102, R103, R50: a waiting requester is granted when `BUSY = 0`, test and set in one step, and every other
waiter then holds; while `BUSY = 1` it holds. -/
def Obligations.GrantIsExclusive : Prop :=
  ∀ (s : State) (p : Nat), (s.curAt p).stage = .wait →
    (s.busy = true → requesterStep p s = .next s) ∧
    (s.busy = false → ∃ t, requesterStep p s = .next t ∧
      t = { s with busy := true, cur := t.cur } ∧ t.curAt p = { stage := .enc, k := 0 } ∧
      (∀ q, q ≠ p → t.curAt q = s.curAt q) ∧
      ∀ q, q ≠ p → (s.curAt q).stage = .wait → requesterStep q t = .next t)

/-- R109: when the controller is Idle, any waiter may be the one granted: for each there is a next move that
grants it. -/
def Obligations.AnyWaiterMayBeGranted : Prop :=
  ∀ (s : State) (p : Nat), s.cfg.wf = true → s.busy = false → (s.curAt p).stage = .wait →
    ∃ (a : List Move) (t : State), step { s with agenda := a } = .next t ∧
      t.busy = true ∧ (t.curAt p).stage = .enc

/-- R92, R104: an ENC step writes slot `k` from the store as it is now, advances `k`, and at the last slot ends
the stage. -/
def Obligations.EncStepWritesOneSlot : Prop :=
  ∀ (s : State) (p : Nat), Memory.wf s.wbuf = true → (s.curAt p).stage = .enc →
    (s.curAt p).k < s.cfg.bufLen →
    ∃ t, requesterStep p s = .next t ∧ t = { s with wbuf := t.wbuf, cur := t.cur } ∧
      t.slotAt (s.curAt p).k = enc s.cfg (s.curAt p).k s.pix ∧
      (∀ k, k ≠ (s.curAt p).k → t.slotAt k = s.slotAt k) ∧
      (t.curAt p).k = (s.curAt p).k + 1 ∧
      ((s.curAt p).k + 1 = s.cfg.bufLen → (t.curAt p).stage = .zero) ∧
      ((s.curAt p).k + 1 ≠ s.cfg.bufLen → (t.curAt p).stage = .enc) ∧
      ∀ q, q ≠ p → t.curAt q = s.curAt q

/-- R105: the ZERO step forces the compare value to 0, traces it, and goes on to ARM. -/
def Obligations.ZeroStepForcesLow : Prop :=
  ∀ (s : State) (p : Nat), (s.curAt p).stage = .zero →
    ∃ t, requesterStep p s = .next t ∧
      t = { s with cmp := 0, trace := s.trace ++ [0], cur := t.cur } ∧
      (t.curAt p).stage = .arm ∧ (t.curAt p).k = (s.curAt p).k ∧ ∀ q, q ≠ p → t.curAt q = s.curAt q

/-- R106, R107, R127: the ARM step starts the transfer of the whole buffer and returns to the caller, `BUSY`
unchanged. -/
def Obligations.ArmStepStartsTheTransfer : Prop :=
  ∀ (s : State) (p : Nat), (s.curAt p).stage = .arm → s.xfer.active = false →
    ∃ t, requesterStep p s = .next t ∧
      t = { s with xfer := { active := true, pos := 0 }, cur := t.cur } ∧
      t.curAt p = { stage := .idle, k := 0 } ∧ ∀ q, q ≠ p → t.curAt q = s.curAt q

/-- R133, U3: an ARM step while a transfer is active is a fault. -/
def Obligations.StartWhileActiveFaults : Prop :=
  ∀ (s : State) (p : Nat), (s.curAt p).stage = .arm → s.xfer.active = true →
    requesterStep p s = .fault .startWhileActive

/-! ### The steps of the engine (spec 43_transfer_engine.md) -/

/-- R128: the SLOT step makes the next slot the compare value, traces it, and advances. -/
def Obligations.SlotStepOutputsTheNextSlot : Prop :=
  ∀ s : State, s.xfer.active = true → s.xfer.pos < s.cfg.bufLen →
    engineStep s = .next { s with
      cmp := s.slotAt s.xfer.pos
      trace := s.trace ++ [s.slotAt s.xfer.pos]
      xfer := { active := true, pos := s.xfer.pos + 1 } }

/-- R129, R118: the COMPLETION step ends the transfer, forces the line low and clears `BUSY`, whether the
engine's move or the event word brings it; with no transfer active the engine does nothing. -/
def Obligations.CompletionStepEndsTheTransfer : Prop :=
  ∀ s : State,
    (s.xfer.active = true → s.xfer.pos = s.cfg.bufLen →
      engineStep s = .next { s with
        xfer := { active := false, pos := s.xfer.pos }
        cmp := 0
        trace := s.trace ++ [0]
        busy := false } ∧
      (s.cfg.timId < 2 ^ s.cfg.idW → arrive (.event s.cfg.timId) s = engineStep s)) ∧
    (s.xfer.active = false → engineStep s = .next s)

/-- R135: the engine never writes `PIX`, `WBUF`, `CUR` or a parameter, and changes `BUSY` by a completion
only. -/
def Obligations.EngineLeavesTheCoreAlone : Prop :=
  ∀ s t : State, engineStep s = .next t →
    t.pix = s.pix ∧ t.wbuf = s.wbuf ∧ t.cur = s.cur ∧ t.cfg = s.cfg ∧
    (t.busy ≠ s.busy → s.xfer.active = true ∧ s.xfer.pos = s.cfg.bufLen ∧ t.busy = false)

/-- U2: a COMPLETE(`TIM_ID`) with no finished transfer behind it does what R111 says and ends no transfer. -/
def Obligations.SpuriousCompletionActsAsWritten : Prop :=
  ∀ (s : State) (rest : List Move), s.cfg.wf = true →
    s.agenda = .input (.event s.cfg.timId) :: rest →
    ¬ (s.xfer.active = true ∧ s.xfer.pos = s.cfg.bufLen) →
    step s = .next { s with agenda := rest, cmp := 0, trace := s.trace ++ [0], busy := false }

/-! ### The Waveform Encoder (spec 41_waveform_encoder.md) -/

/-- R69, R90: the index map and its inverse, and what `enc` puts in each slot: the pulse of bit `b` of channel
`c` of LED `i`, and 0 in the reset region. -/
def Obligations.EncFollowsTheSlotOrder : Prop :=
  ∀ (c : Config) (P : List Pixel),
    (∀ k, k < c.dataSlots →
      k / 24 < c.ledCount ∧ k % 24 / 8 < 3 ∧ 7 - k % 8 < 8 ∧
      slotIndex (k / 24) (k % 24 / 8) (7 - k % 8) = k) ∧
    (∀ i ch b, i < c.ledCount → ch < 3 → b < 8 →
      slotIndex i ch b < c.dataSlots ∧
      enc c (slotIndex i ch b) P =
        if ((P.getD i Pixel.off).ch ch).getLsbD b then c.cmpLong else c.cmpShort) ∧
    (∀ k, c.dataSlots ≤ k → enc c k P = 0)

/-- R90 in the 24-bit view of R22: slot `k` carries bit `23 - (k mod 24)` of `E24(k div 24)`. -/
def Obligations.EncReadsTheE24View : Prop :=
  ∀ (c : Config) (P : List Pixel) (k : Nat), k < c.dataSlots →
    enc c k P =
      if (P.getD (k / 24) Pixel.off).e24.getLsbD (23 - k % 24) then c.cmpLong else c.cmpShort

/-- R96: the all-off store gives short pulses and the all-on store long ones, and zeros in the reset
region. -/
def Obligations.AllOffAndAllOnWaveforms : Prop :=
  ∀ (c : Config) (k : Nat),
    (k < c.dataSlots →
      enc c k (List.replicate c.ledCount { green := 0, red := 0, blue := 0 }) = c.cmpShort ∧
      enc c k (List.replicate c.ledCount { green := 0xFF, red := 0xFF, blue := 0xFF }) = c.cmpLong) ∧
    (c.dataSlots ≤ k →
      enc c k (List.replicate c.ledCount { green := 0, red := 0, blue := 0 }) = 0 ∧
      enc c k (List.replicate c.ledCount { green := 0xFF, red := 0xFF, blue := 0xFF }) = 0)

/-- R68: under the constraints of the parameters a buffer can be decoded back: the three slot values differ,
and a data slot holds the long pulse exactly when its bit is 1. -/
def Obligations.SlotValuesDecodeBack : Prop :=
  ∀ (c : Config) (P : List Pixel), c.wf = true →
    0 ≠ c.cmpShort ∧ 0 ≠ c.cmpLong ∧ c.cmpShort ≠ c.cmpLong ∧
    ∀ k, (enc c k P = 0 ↔ c.dataSlots ≤ k) ∧
      (k < c.dataSlots →
        (enc c k P = c.cmpLong ↔
          ((P.getD (k / 24) Pixel.off).ch (k % 24 / 8)).getLsbD (7 - k % 8) = true) ∧
        (enc c k P = c.cmpShort ↔
          ((P.getD (k / 24) Pixel.off).ch (k % 24 / 8)).getLsbD (7 - k % 8) = false))

/-- R95: after a SET_PIXEL in range, the 24 slots of its LED carry green, red and blue, bit 7 first. -/
def Obligations.SetPixelPlacesItsBits : Prop :=
  ∀ (s t : State) (p : Nat) (idx : BitVec 32) (r g b : Byte) (j : Nat),
    s.pix.length = s.cfg.ledCount → idx.toNat < s.cfg.ledCount → j < 8 →
    exec (.setPixel p idx r g b) s = .next t →
    enc t.cfg (24 * idx.toNat + j) t.pix =
      (if g.getLsbD (7 - j) then s.cfg.cmpLong else s.cfg.cmpShort) ∧
    enc t.cfg (24 * idx.toNat + 8 + j) t.pix =
      (if r.getLsbD (7 - j) then s.cfg.cmpLong else s.cfg.cmpShort) ∧
    enc t.cfg (24 * idx.toNat + 16 + j) t.pix =
      (if b.getLsbD (7 - j) then s.cfg.cmpLong else s.cfg.cmpShort)

/-- R91, R93, R94: an encode that no other agent disturbs writes exactly the `BUF_LEN` slots of the buffer, each
with `enc` of the store, whatever the buffer held, and goes on to ZERO. -/
def Obligations.UndisturbedEncodeFillsTheBuffer : Prop :=
  ∀ (s : State) (p : Nat) (rest : List Move), s.Wf → s.curAt p = { stage := .enc, k := 0 } →
    s.agenda = List.replicate s.cfg.bufLen (.requester p) ++ rest →
    ∃ t, runSteps s.cfg.bufLen s = .next t ∧
      t = { s with wbuf := t.wbuf, cur := t.cur, agenda := rest } ∧
      (∀ k, k < s.cfg.bufLen → t.slotAt k = enc s.cfg k s.pix) ∧
      (∀ k, s.cfg.bufLen ≤ k → t.slotAt k = s.slotAt k) ∧
      t.curAt p = { stage := .zero, k := s.cfg.bufLen } ∧ ∀ q, q ≠ p → t.curAt q = s.curAt q

/-- R48, R132: one undisturbed SHOW, from its grant to its completion, traces 0, then the `BUF_LEN` slot values
in ascending order, then 0, and leaves the controller Idle with the line low. -/
def Obligations.UndisturbedShowTracesTheWaveform : Prop :=
  ∀ (s : State) (p : Nat) (rest : List Move), s.Wf → (s.curAt p).stage = .wait → s.busy = false →
    s.xfer.active = false →
    s.agenda = List.replicate (s.cfg.bufLen + 3) (.requester p) ++
      (List.replicate (s.cfg.bufLen + 1) .engine ++ rest) →
    ∃ t, runSteps (2 * s.cfg.bufLen + 4) s = .next t ∧
      t.trace = s.trace ++ [0] ++ (List.range s.cfg.bufLen).map (fun k => enc s.cfg k s.pix) ++ [0] ∧
      t.busy = false ∧ t.cmp = 0 ∧ t.xfer.active = false ∧ t.pix = s.pix ∧ t.agenda = rest ∧
      t.curAt p = { stage := .idle, k := 0 } ∧ (∀ q, q ≠ p → t.curAt q = s.curAt q) ∧
      ∀ k, k < s.cfg.bufLen → t.slotAt k = enc s.cfg k s.pix

/-! ### Invariants (spec 10_state.md R34) -/

/-- Every step keeps the shape of the state: lengths, widths, ranges, and the canonical form of the
buffer. -/
def Obligations.StepKeepsTheShape : Prop :=
  ∀ s t : State, s.Wf → step s = .next t → t.Wf

/-- R34: every step in which the environment keeps its contract keeps the protocol. -/
def Obligations.StepKeepsTheProtocol : Prop :=
  ∀ s t : State, s.Wf → s.Protocol → s.EnvironmentKeeps → step s = .next t → t.Protocol

/-- R133, R34 item 2: under the protocol no step faults. -/
def Obligations.ProtocolExcludesTheFault : Prop :=
  ∀ (s : State) (r : Fault), s.Protocol → step s ≠ .fault r

/-- R100: while `BUSY = 1` there is an owner or a transfer in flight; every step in which the environment
keeps its contract keeps that. -/
def Obligations.StepKeepsBusyAccounted : Prop :=
  ∀ s t : State, s.Wf → s.Protocol → s.BusyAccounted → s.EnvironmentKeeps → step s = .next t →
    t.BusyAccounted

/-- R31, R130: the compare value in force is the last one traced, after every step. -/
def Obligations.StepKeepsCompareTraced : Prop :=
  ∀ s t : State, s.CompareTraced → step s = .next t → t.CompareTraced

/-- R156: while Idle the last value traced, if any, is 0; every step from a state of the protocol keeps
that. -/
def Obligations.StepKeepsIdleLow : Prop :=
  ∀ s t : State, s.Protocol → s.IdleLow → step s = .next t → t.IdleLow

/-- The state after reset meets every invariant, under every parameter set that meets its constraints. -/
def Obligations.ResetMeetsTheInvariants : Prop :=
  ∀ c : Config, c.wf = true →
    (State.resetWith c).Wf ∧ (State.resetWith c).Protocol ∧ (State.resetWith c).BusyAccounted ∧
    (State.resetWith c).CompareTraced ∧ (State.resetWith c).IdleLow ∧ (State.resetWith c).final = true

/-- R33: the values the spec gives for reset, in the state after reset. -/
def Obligations.ResetValues : Prop :=
  State.reset.busy = false ∧ State.reset.xfer = { active := false, pos := 0 } ∧
  State.reset.trace = [] ∧ State.reset.cur.length = State.reset.cfg.nReq ∧
  (∀ p, State.reset.curAt p = { stage := .idle, k := 0 }) ∧
  State.reset.pix.length = State.reset.cfg.ledCount

/-- R160: the RESET event, in every state, gives the values of R33 and keeps the parameters; `PIX`, `WBUF` and
`CMP` are left free. -/
def Obligations.ResetEventGivesTheResetValues : Prop :=
  ∀ (s : State) (rest : List Move), s.cfg.wf = true → s.agenda = .reset :: rest →
    ∃ t, step s = .next t ∧ t.busy = false ∧ t.xfer = { active := false, pos := 0 } ∧ t.trace = [] ∧
      t.cfg = s.cfg ∧ t.agenda = rest ∧ ∀ p, t.curAt p = { stage := .idle, k := 0 }

/-! ### Rules of the whole machine -/

/-- R26: no step changes a parameter. -/
def Obligations.ParametersNeverChange : Prop :=
  ∀ s t : State, step s = .next t → t.cfg = s.cfg

/-- R100: the only transition from Idle to Transmitting is a GRANT step. -/
def Obligations.OnlyAGrantSetsBusy : Prop :=
  ∀ s t : State, step s = .next t → s.busy = false → t.busy = true →
    ∃ p, nextMove s = .requester p ∧ (s.curAt p).stage = .wait ∧ (t.curAt p).stage = .enc

/-- R24, R100, R111: the only transitions from Transmitting to Idle are a completion and RESET. -/
def Obligations.OnlyACompletionClearsBusy : Prop :=
  ∀ s t : State, step s = .next t → s.busy = true → t.busy = false →
    nextMove s = .reset ∨ nextMove s = .input (.event s.cfg.timId) ∨
    (nextMove s = .engine ∧ s.xfer.active = true ∧ s.xfer.pos = s.cfg.bufLen)

/-- R23, R135: a slot of the Waveform Buffer is written by the ENC step at that slot only, RESET apart. -/
def Obligations.OnlyAnEncStepWritesASlot : Prop :=
  ∀ (s t : State) (k : Nat), step s = .next t → t.slotAt k ≠ s.slotAt k →
    nextMove s = .reset ∨
    ∃ p, nextMove s = .requester p ∧ (s.curAt p).stage = .enc ∧ (s.curAt p).k = k

/-- R21, R35: the Pixel Store is written by SET_PIXEL, CLEAR and INIT only, RESET apart. -/
def Obligations.OnlyCommandsWriteThePixelStore : Prop :=
  ∀ s t : State, step s = .next t → t.pix ≠ s.pix →
    nextMove s = .reset ∨
    ∃ (p : Nat) (w : CommandWord), nextMove s = .input (.command p w) ∧
      (fieldOp w = 0x1#4 ∨ fieldOp w = 0x2#4 ∨ fieldOp w = 0x3#4)

/-- R153: the record of requester `p` is changed by its own steps and the commands on its own port only, RESET
apart. -/
def Obligations.RequesterRecordsArePrivate : Prop :=
  ∀ (s t : State) (p : Nat), step s = .next t → t.curAt p ≠ s.curAt p →
    nextMove s = .reset ∨ nextMove s = .requester p ∨
    ∃ w : CommandWord, nextMove s = .input (.command p w) ∧ (fieldOp w = 0x1#4 ∨ fieldOp w = 0x4#4)

/-- R114: nothing but RESET ends a transfer that has not output every slot. -/
def Obligations.TransferRunsToCompletion : Prop :=
  ∀ s t : State, step s = .next t → s.xfer.active = true → t.xfer.active = false →
    nextMove s = .reset ∨
    (s.xfer.pos = s.cfg.bufLen ∧
      (nextMove s = .engine ∨ nextMove s = .input (.event s.cfg.timId)))

/-- R25, R37: under the protocol a step that changes `CMP`, RESET apart, makes it 0 or a pulse constant. -/
def Obligations.CompareValuesAreLegal : Prop :=
  ∀ s t : State, s.Protocol → step s = .next t → t.cmp ≠ s.cmp →
    nextMove s = .reset ∨ t.cmp = 0 ∨ t.cmp = s.cfg.cmpShort ∨ t.cmp = s.cfg.cmpLong

/-- R115: while a requester owns the transfer every other requester holds, and while the transfer is in flight
every requester holds. -/
def Obligations.OthersHoldWhileTransmitting : Prop :=
  ∀ s : State, s.Protocol →
    (∀ p q, s.owns p = true → q ≠ p → requesterStep q s = .next s) ∧
    (s.xfer.active = true → ∀ q, requesterStep q s = .next s)

/-! ### Runs -/

/-- R113: in a run in which no completion and no RESET comes, whatever else the host, the environment and the
agents do and however long, `BUSY` stays 1, and every requester that waits waits for ever. -/
def Obligations.StuckTransferNeverEnds : Prop :=
  ∀ (moves : Nat → Move) (run : Nat → State), IsRun moves run → (run 0).busy = true →
    (∀ n, moves n ≠ .reset ∧ moves n ≠ .input (.event (run n).cfg.timId) ∧
      ¬ (moves n = .engine ∧ (run n).transferFinished = true)) →
    (∀ n, (run n).busy = true) ∧
    ∀ m p, (run m).waits p = true → ∀ n, m ≤ n → (run n).waits p = true

/-- R110: in a weakly fair run in which the environment keeps its contract, whatever else the host and the
environment do and however long, Transmitting ends. -/
def Obligations.FairTransmissionEnds : Prop :=
  ∀ (moves : Nat → Move) (run : Nat → State), IsRun moves run → WeaklyFair moves run → (run 0).Wf →
    (run 0).Protocol → (run 0).BusyAccounted → (∀ n, (run n).KeepsContract (moves n)) →
    ∀ n, (run n).busy = true → ∃ m, n ≤ m ∧ (run m).busy = false

/-! ### Parameters and views -/

/-- R70: the pulse constants derived from `PERIOD` are `floor(32 * PERIOD / 100)` and
`floor(64 * PERIOD / 100)`, and from `PERIOD = 4` on they meet their constraints. -/
def Obligations.DefaultPulseConstants : Prop :=
  ∀ (c : Config) (period : Nat), 4 ≤ period →
    (c.withPeriod period).cmpShort = 32 * period / 100 ∧
    (c.withPeriod period).cmpLong = 64 * period / 100 ∧
    1 ≤ (c.withPeriod period).cmpShort ∧
    (c.withPeriod period).cmpShort < (c.withPeriod period).cmpLong ∧
    (c.withPeriod period).cmpLong < period

/-- R44: in the byte-addressed view, byte `j` of slot `k` lies at `base + k * (SLOT_W / 8) + j`, least
significant first, and channel `ch` of entry `i` at `pixbase + 3 * i + ch`. -/
def Obligations.ByteViewLayout : Prop :=
  ∀ (s : State) (base : Nat), 0 < s.cfg.slotW → s.cfg.slotW % 8 = 0 → base % (s.cfg.slotW / 8) = 0 →
    (∀ k j, k < s.cfg.bufLen → j < s.cfg.slotW / 8 →
      s.wbufByte base (base + k * (s.cfg.slotW / 8) + j) =
        some (BitVec.ofNat 8 (s.slotAt k / 256 ^ j))) ∧
    (∀ pixbase i ch, i < s.cfg.ledCount → ch < 3 →
      s.pixByte pixbase (pixbase + 3 * i + ch) = some ((s.pixAt i).ch ch))

/-! ### Every order of moves, without end -/

/-- R16, R47: every step is a step of a run (`IsRun`), by its own next move; and every finite sequence of moves is
carried out by steps, once it stands at the head of the agenda. The agenda is the model's own (assumption 1). -/
def Obligations.StepsAndMovesAgree : Prop :=
  (∀ s t : State, step s = .next t → ∃ rest draws, step (s.facing (nextMove s) rest draws) = .next t) ∧
  (∀ (ms : List Move) (s t : State), s.cfg.wf = true → runMoves ms s = .next t →
    runSteps ms.length { s with agenda := ms ++ s.agenda } = .next t)

/-- R171, R109: with two requesters or more there is, from reset, a weakly fair run of moves the spec has in
which requester 1 waits for ever although its GRANT step is enabled again and again. -/
def Obligations.StarvationIsPossible : Prop :=
  ∀ c : Config, c.wf = true → 2 ≤ c.nReq →
    ∃ (moves : Nat → Move) (run : Nat → State), run 0 = State.resetWith c ∧ IsRun moves run ∧
      WeaklyFair moves run ∧ (∀ n, (run n).MayComeNext (moves n)) ∧
      (∀ n, 1 ≤ n → (run n).waits 1 = true) ∧
      ∀ n, ∃ m, n ≤ m ∧ (run m).GrantEnabled
end

