-- ==== Sys2Proof/Laws/State.lean ====
section
/-! SUPPORT. One lemma per field per update of the state, true by definition. -/

namespace Sys2Proof.Machine

variable (s : State)

/-! ### `withPix` -/

@[simp] theorem State.withPix_cfg (v : List Pixel) : (s.withPix v).cfg = s.cfg := rfl
@[simp] theorem State.withPix_pix (v : List Pixel) : (s.withPix v).pix = v := rfl
@[simp] theorem State.withPix_wbuf (v : List Pixel) : (s.withPix v).wbuf = s.wbuf := rfl
@[simp] theorem State.withPix_busy (v : List Pixel) : (s.withPix v).busy = s.busy := rfl
@[simp] theorem State.withPix_cmp (v : List Pixel) : (s.withPix v).cmp = s.cmp := rfl
@[simp] theorem State.withPix_cur (v : List Pixel) : (s.withPix v).cur = s.cur := rfl
@[simp] theorem State.withPix_xfer (v : List Pixel) : (s.withPix v).xfer = s.xfer := rfl
@[simp] theorem State.withPix_trace (v : List Pixel) : (s.withPix v).trace = s.trace := rfl
@[simp] theorem State.withPix_agenda (v : List Pixel) : (s.withPix v).agenda = s.agenda := rfl
@[simp] theorem State.withPix_draws (v : List Pixel) : (s.withPix v).draws = s.draws := rfl

/-! ### `withWbuf` -/

@[simp] theorem State.withWbuf_cfg (v : Memory) : (s.withWbuf v).cfg = s.cfg := rfl
@[simp] theorem State.withWbuf_pix (v : Memory) : (s.withWbuf v).pix = s.pix := rfl
@[simp] theorem State.withWbuf_wbuf (v : Memory) : (s.withWbuf v).wbuf = v := rfl
@[simp] theorem State.withWbuf_busy (v : Memory) : (s.withWbuf v).busy = s.busy := rfl
@[simp] theorem State.withWbuf_cmp (v : Memory) : (s.withWbuf v).cmp = s.cmp := rfl
@[simp] theorem State.withWbuf_cur (v : Memory) : (s.withWbuf v).cur = s.cur := rfl
@[simp] theorem State.withWbuf_xfer (v : Memory) : (s.withWbuf v).xfer = s.xfer := rfl
@[simp] theorem State.withWbuf_trace (v : Memory) : (s.withWbuf v).trace = s.trace := rfl
@[simp] theorem State.withWbuf_agenda (v : Memory) : (s.withWbuf v).agenda = s.agenda := rfl
@[simp] theorem State.withWbuf_draws (v : Memory) : (s.withWbuf v).draws = s.draws := rfl

/-! ### `withBusy` -/

@[simp] theorem State.withBusy_cfg (v : Bool) : (s.withBusy v).cfg = s.cfg := rfl
@[simp] theorem State.withBusy_pix (v : Bool) : (s.withBusy v).pix = s.pix := rfl
@[simp] theorem State.withBusy_wbuf (v : Bool) : (s.withBusy v).wbuf = s.wbuf := rfl
@[simp] theorem State.withBusy_busy (v : Bool) : (s.withBusy v).busy = v := rfl
@[simp] theorem State.withBusy_cmp (v : Bool) : (s.withBusy v).cmp = s.cmp := rfl
@[simp] theorem State.withBusy_cur (v : Bool) : (s.withBusy v).cur = s.cur := rfl
@[simp] theorem State.withBusy_xfer (v : Bool) : (s.withBusy v).xfer = s.xfer := rfl
@[simp] theorem State.withBusy_trace (v : Bool) : (s.withBusy v).trace = s.trace := rfl
@[simp] theorem State.withBusy_agenda (v : Bool) : (s.withBusy v).agenda = s.agenda := rfl
@[simp] theorem State.withBusy_draws (v : Bool) : (s.withBusy v).draws = s.draws := rfl

/-! ### `withCmp` -/

@[simp] theorem State.withCmp_cfg (v : Nat) : (s.withCmp v).cfg = s.cfg := rfl
@[simp] theorem State.withCmp_pix (v : Nat) : (s.withCmp v).pix = s.pix := rfl
@[simp] theorem State.withCmp_wbuf (v : Nat) : (s.withCmp v).wbuf = s.wbuf := rfl
@[simp] theorem State.withCmp_busy (v : Nat) : (s.withCmp v).busy = s.busy := rfl
@[simp] theorem State.withCmp_cmp (v : Nat) : (s.withCmp v).cmp = v := rfl
@[simp] theorem State.withCmp_cur (v : Nat) : (s.withCmp v).cur = s.cur := rfl
@[simp] theorem State.withCmp_xfer (v : Nat) : (s.withCmp v).xfer = s.xfer := rfl
@[simp] theorem State.withCmp_trace (v : Nat) : (s.withCmp v).trace = s.trace := rfl
@[simp] theorem State.withCmp_agenda (v : Nat) : (s.withCmp v).agenda = s.agenda := rfl
@[simp] theorem State.withCmp_draws (v : Nat) : (s.withCmp v).draws = s.draws := rfl

/-! ### `withCur` -/

@[simp] theorem State.withCur_cfg (v : List Cur) : (s.withCur v).cfg = s.cfg := rfl
@[simp] theorem State.withCur_pix (v : List Cur) : (s.withCur v).pix = s.pix := rfl
@[simp] theorem State.withCur_wbuf (v : List Cur) : (s.withCur v).wbuf = s.wbuf := rfl
@[simp] theorem State.withCur_busy (v : List Cur) : (s.withCur v).busy = s.busy := rfl
@[simp] theorem State.withCur_cmp (v : List Cur) : (s.withCur v).cmp = s.cmp := rfl
@[simp] theorem State.withCur_cur (v : List Cur) : (s.withCur v).cur = v := rfl
@[simp] theorem State.withCur_xfer (v : List Cur) : (s.withCur v).xfer = s.xfer := rfl
@[simp] theorem State.withCur_trace (v : List Cur) : (s.withCur v).trace = s.trace := rfl
@[simp] theorem State.withCur_agenda (v : List Cur) : (s.withCur v).agenda = s.agenda := rfl
@[simp] theorem State.withCur_draws (v : List Cur) : (s.withCur v).draws = s.draws := rfl

/-! ### `withXfer` -/

@[simp] theorem State.withXfer_cfg (v : Xfer) : (s.withXfer v).cfg = s.cfg := rfl
@[simp] theorem State.withXfer_pix (v : Xfer) : (s.withXfer v).pix = s.pix := rfl
@[simp] theorem State.withXfer_wbuf (v : Xfer) : (s.withXfer v).wbuf = s.wbuf := rfl
@[simp] theorem State.withXfer_busy (v : Xfer) : (s.withXfer v).busy = s.busy := rfl
@[simp] theorem State.withXfer_cmp (v : Xfer) : (s.withXfer v).cmp = s.cmp := rfl
@[simp] theorem State.withXfer_cur (v : Xfer) : (s.withXfer v).cur = s.cur := rfl
@[simp] theorem State.withXfer_xfer (v : Xfer) : (s.withXfer v).xfer = v := rfl
@[simp] theorem State.withXfer_trace (v : Xfer) : (s.withXfer v).trace = s.trace := rfl
@[simp] theorem State.withXfer_agenda (v : Xfer) : (s.withXfer v).agenda = s.agenda := rfl
@[simp] theorem State.withXfer_draws (v : Xfer) : (s.withXfer v).draws = s.draws := rfl

/-! ### `withTrace` -/

@[simp] theorem State.withTrace_cfg (v : List Nat) : (s.withTrace v).cfg = s.cfg := rfl
@[simp] theorem State.withTrace_pix (v : List Nat) : (s.withTrace v).pix = s.pix := rfl
@[simp] theorem State.withTrace_wbuf (v : List Nat) : (s.withTrace v).wbuf = s.wbuf := rfl
@[simp] theorem State.withTrace_busy (v : List Nat) : (s.withTrace v).busy = s.busy := rfl
@[simp] theorem State.withTrace_cmp (v : List Nat) : (s.withTrace v).cmp = s.cmp := rfl
@[simp] theorem State.withTrace_cur (v : List Nat) : (s.withTrace v).cur = s.cur := rfl
@[simp] theorem State.withTrace_xfer (v : List Nat) : (s.withTrace v).xfer = s.xfer := rfl
@[simp] theorem State.withTrace_trace (v : List Nat) : (s.withTrace v).trace = v := rfl
@[simp] theorem State.withTrace_agenda (v : List Nat) : (s.withTrace v).agenda = s.agenda := rfl
@[simp] theorem State.withTrace_draws (v : List Nat) : (s.withTrace v).draws = s.draws := rfl

/-! ### `withAgenda` -/

@[simp] theorem State.withAgenda_cfg (v : List Move) : (s.withAgenda v).cfg = s.cfg := rfl
@[simp] theorem State.withAgenda_pix (v : List Move) : (s.withAgenda v).pix = s.pix := rfl
@[simp] theorem State.withAgenda_wbuf (v : List Move) : (s.withAgenda v).wbuf = s.wbuf := rfl
@[simp] theorem State.withAgenda_busy (v : List Move) : (s.withAgenda v).busy = s.busy := rfl
@[simp] theorem State.withAgenda_cmp (v : List Move) : (s.withAgenda v).cmp = s.cmp := rfl
@[simp] theorem State.withAgenda_cur (v : List Move) : (s.withAgenda v).cur = s.cur := rfl
@[simp] theorem State.withAgenda_xfer (v : List Move) : (s.withAgenda v).xfer = s.xfer := rfl
@[simp] theorem State.withAgenda_trace (v : List Move) : (s.withAgenda v).trace = s.trace := rfl
@[simp] theorem State.withAgenda_agenda (v : List Move) : (s.withAgenda v).agenda = v := rfl
@[simp] theorem State.withAgenda_draws (v : List Move) : (s.withAgenda v).draws = s.draws := rfl

/-! ### `withDraws` -/

@[simp] theorem State.withDraws_cfg (v : Nat) : (s.withDraws v).cfg = s.cfg := rfl
@[simp] theorem State.withDraws_pix (v : Nat) : (s.withDraws v).pix = s.pix := rfl
@[simp] theorem State.withDraws_wbuf (v : Nat) : (s.withDraws v).wbuf = s.wbuf := rfl
@[simp] theorem State.withDraws_busy (v : Nat) : (s.withDraws v).busy = s.busy := rfl
@[simp] theorem State.withDraws_cmp (v : Nat) : (s.withDraws v).cmp = s.cmp := rfl
@[simp] theorem State.withDraws_cur (v : Nat) : (s.withDraws v).cur = s.cur := rfl
@[simp] theorem State.withDraws_xfer (v : Nat) : (s.withDraws v).xfer = s.xfer := rfl
@[simp] theorem State.withDraws_trace (v : Nat) : (s.withDraws v).trace = s.trace := rfl
@[simp] theorem State.withDraws_agenda (v : Nat) : (s.withDraws v).agenda = s.agenda := rfl
@[simp] theorem State.withDraws_draws (v : Nat) : (s.withDraws v).draws = v := rfl

/-! ### `setCur` -/

@[simp] theorem State.setCur_cfg (p : Nat) (c : Cur) : (s.setCur p c).cfg = s.cfg := rfl
@[simp] theorem State.setCur_pix (p : Nat) (c : Cur) : (s.setCur p c).pix = s.pix := rfl
@[simp] theorem State.setCur_wbuf (p : Nat) (c : Cur) : (s.setCur p c).wbuf = s.wbuf := rfl
@[simp] theorem State.setCur_busy (p : Nat) (c : Cur) : (s.setCur p c).busy = s.busy := rfl
@[simp] theorem State.setCur_cmp (p : Nat) (c : Cur) : (s.setCur p c).cmp = s.cmp := rfl
@[simp] theorem State.setCur_cur (p : Nat) (c : Cur) : (s.setCur p c).cur = s.cur.set p c := rfl
@[simp] theorem State.setCur_xfer (p : Nat) (c : Cur) : (s.setCur p c).xfer = s.xfer := rfl
@[simp] theorem State.setCur_trace (p : Nat) (c : Cur) : (s.setCur p c).trace = s.trace := rfl
@[simp] theorem State.setCur_agenda (p : Nat) (c : Cur) : (s.setCur p c).agenda = s.agenda := rfl
@[simp] theorem State.setCur_draws (p : Nat) (c : Cur) : (s.setCur p c).draws = s.draws := rfl

/-! ### `setCompare` -/

@[simp] theorem State.setCompare_cfg (v : Nat) : (s.setCompare v).cfg = s.cfg := rfl
@[simp] theorem State.setCompare_pix (v : Nat) : (s.setCompare v).pix = s.pix := rfl
@[simp] theorem State.setCompare_wbuf (v : Nat) : (s.setCompare v).wbuf = s.wbuf := rfl
@[simp] theorem State.setCompare_busy (v : Nat) : (s.setCompare v).busy = s.busy := rfl
@[simp] theorem State.setCompare_cmp (v : Nat) : (s.setCompare v).cmp = v := rfl
@[simp] theorem State.setCompare_cur (v : Nat) : (s.setCompare v).cur = s.cur := rfl
@[simp] theorem State.setCompare_xfer (v : Nat) : (s.setCompare v).xfer = s.xfer := rfl
@[simp] theorem State.setCompare_trace (v : Nat) : (s.setCompare v).trace = s.trace ++ [v] := rfl
@[simp] theorem State.setCompare_agenda (v : Nat) : (s.setCompare v).agenda = s.agenda := rfl
@[simp] theorem State.setCompare_draws (v : Nat) : (s.setCompare v).draws = s.draws := rfl

/-! ### `writeSlot` -/

@[simp] theorem State.writeSlot_cfg (k : Nat) (v : Nat) : (s.writeSlot k v).cfg = s.cfg := rfl
@[simp] theorem State.writeSlot_pix (k : Nat) (v : Nat) : (s.writeSlot k v).pix = s.pix := rfl
@[simp] theorem State.writeSlot_wbuf (k : Nat) (v : Nat) : (s.writeSlot k v).wbuf = memWrite s.wbuf k v := rfl
@[simp] theorem State.writeSlot_busy (k : Nat) (v : Nat) : (s.writeSlot k v).busy = s.busy := rfl
@[simp] theorem State.writeSlot_cmp (k : Nat) (v : Nat) : (s.writeSlot k v).cmp = s.cmp := rfl
@[simp] theorem State.writeSlot_cur (k : Nat) (v : Nat) : (s.writeSlot k v).cur = s.cur := rfl
@[simp] theorem State.writeSlot_xfer (k : Nat) (v : Nat) : (s.writeSlot k v).xfer = s.xfer := rfl
@[simp] theorem State.writeSlot_trace (k : Nat) (v : Nat) : (s.writeSlot k v).trace = s.trace := rfl
@[simp] theorem State.writeSlot_agenda (k : Nat) (v : Nat) : (s.writeSlot k v).agenda = s.agenda := rfl
@[simp] theorem State.writeSlot_draws (k : Nat) (v : Nat) : (s.writeSlot k v).draws = s.draws := rfl

/-! ### `zeroPixels` -/

@[simp] theorem State.zeroPixels_cfg : s.zeroPixels.cfg = s.cfg := rfl
@[simp] theorem State.zeroPixels_pix : s.zeroPixels.pix = List.replicate s.cfg.ledCount Pixel.off := rfl
@[simp] theorem State.zeroPixels_wbuf : s.zeroPixels.wbuf = s.wbuf := rfl
@[simp] theorem State.zeroPixels_busy : s.zeroPixels.busy = s.busy := rfl
@[simp] theorem State.zeroPixels_cmp : s.zeroPixels.cmp = s.cmp := rfl
@[simp] theorem State.zeroPixels_cur : s.zeroPixels.cur = s.cur := rfl
@[simp] theorem State.zeroPixels_xfer : s.zeroPixels.xfer = s.xfer := rfl
@[simp] theorem State.zeroPixels_trace : s.zeroPixels.trace = s.trace := rfl
@[simp] theorem State.zeroPixels_agenda : s.zeroPixels.agenda = s.agenda := rfl
@[simp] theorem State.zeroPixels_draws : s.zeroPixels.draws = s.draws := rfl

/-! ### `enterWait` -/

@[simp] theorem State.enterWait_cfg (p : Nat) : (s.enterWait p).cfg = s.cfg := rfl
@[simp] theorem State.enterWait_pix (p : Nat) : (s.enterWait p).pix = s.pix := rfl
@[simp] theorem State.enterWait_wbuf (p : Nat) : (s.enterWait p).wbuf = s.wbuf := rfl
@[simp] theorem State.enterWait_busy (p : Nat) : (s.enterWait p).busy = s.busy := rfl
@[simp] theorem State.enterWait_cmp (p : Nat) : (s.enterWait p).cmp = s.cmp := rfl
@[simp] theorem State.enterWait_cur (p : Nat) : (s.enterWait p).cur = s.cur.set p { stage := .wait, k := 0 } := rfl
@[simp] theorem State.enterWait_xfer (p : Nat) : (s.enterWait p).xfer = s.xfer := rfl
@[simp] theorem State.enterWait_trace (p : Nat) : (s.enterWait p).trace = s.trace := rfl
@[simp] theorem State.enterWait_agenda (p : Nat) : (s.enterWait p).agenda = s.agenda := rfl
@[simp] theorem State.enterWait_draws (p : Nat) : (s.enterWait p).draws = s.draws := rfl

/-! ### `endTransfer` -/

@[simp] theorem State.endTransfer_cfg : s.endTransfer.cfg = s.cfg := rfl
@[simp] theorem State.endTransfer_pix : s.endTransfer.pix = s.pix := rfl
@[simp] theorem State.endTransfer_wbuf : s.endTransfer.wbuf = s.wbuf := rfl
@[simp] theorem State.endTransfer_busy : s.endTransfer.busy = s.busy := rfl
@[simp] theorem State.endTransfer_cmp : s.endTransfer.cmp = s.cmp := rfl
@[simp] theorem State.endTransfer_cur : s.endTransfer.cur = s.cur := rfl
@[simp] theorem State.endTransfer_xfer : s.endTransfer.xfer = { s.xfer with active := false } := rfl
@[simp] theorem State.endTransfer_trace : s.endTransfer.trace = s.trace := rfl
@[simp] theorem State.endTransfer_agenda : s.endTransfer.agenda = s.agenda := rfl
@[simp] theorem State.endTransfer_draws : s.endTransfer.draws = s.draws := rfl

/-! ### `takeCompletion` -/

@[simp] theorem takeCompletion_cfg : (takeCompletion s).cfg = s.cfg := rfl
@[simp] theorem takeCompletion_pix : (takeCompletion s).pix = s.pix := rfl
@[simp] theorem takeCompletion_wbuf : (takeCompletion s).wbuf = s.wbuf := rfl
@[simp] theorem takeCompletion_busy : (takeCompletion s).busy = false := rfl
@[simp] theorem takeCompletion_cmp : (takeCompletion s).cmp = 0 := rfl
@[simp] theorem takeCompletion_cur : (takeCompletion s).cur = s.cur := rfl
@[simp] theorem takeCompletion_xfer : (takeCompletion s).xfer = s.xfer := rfl
@[simp] theorem takeCompletion_trace : (takeCompletion s).trace = s.trace ++ [0] := rfl
@[simp] theorem takeCompletion_agenda : (takeCompletion s).agenda = s.agenda := rfl
@[simp] theorem takeCompletion_draws : (takeCompletion s).draws = s.draws := rfl

end Sys2Proof.Machine
end

