-- ==== Sys2Proof/Laws/Memory.lean ====
section
/-! SUPPORT. The laws of the waveform space: a read after a write, the canonical form, and that equal contents are
equal data. -/

namespace Sys2Proof.Machine

theorem Memory.wf_iff (m : Memory) :
    Memory.wf m = true ↔ m.Pairwise (fun a b => a.1 < b.1) ∧ ∀ a ∈ m, a.2 ≠ unlistedSlot := by
  simp [Memory.wf]

theorem Memory.wf_nil : Memory.wf [] = true := by decide

theorem Memory.wf_cons (a : Nat × Nat) (m : Memory) :
    Memory.wf (a :: m) = true ↔
      (∀ b ∈ m, a.1 < b.1) ∧ a.2 ≠ unlistedSlot ∧ Memory.wf m = true := by
  simp only [Memory.wf_iff, List.pairwise_cons, List.forall_mem_cons]
  tauto

theorem memRead_unlisted {m : Memory} {k : Nat} (h : ∀ a ∈ m, a.1 ≠ k) :
    memRead m k = unlistedSlot := by
  induction m with
  | nil => rfl
  | cons a m ih =>
    simp only [List.forall_mem_cons] at h
    simp only [memRead, if_neg (Ne.symm h.1), ih h.2]

theorem memRead_mem {m : Memory} {k : Nat} : memRead m k = unlistedSlot ∨ (k, memRead m k) ∈ m := by
  induction m with
  | nil => exact .inl rfl
  | cons a m ih =>
    by_cases hk : k = a.1
    · subst hk; right; simp [memRead]
    · simp only [memRead, if_neg hk]
      exact ih.imp id (List.mem_cons_of_mem a)

theorem mem_memWrite {m : Memory} {k : Nat} {v : Nat} {a : Nat × Nat}
    (h : a ∈ memWrite m k v) : (a = (k, v) ∧ v ≠ unlistedSlot) ∨ a ∈ m := by
  induction m with
  | nil =>
    unfold memWrite at h
    split at h
    · cases h
    · next hv => exact .inl ⟨by simpa using h, hv⟩
  | cons b m ih =>
    unfold memWrite at h
    split_ifs at h with h1 h2 h3 h4
    · exact .inr h
    · rcases List.mem_cons.1 h with rfl | h
      · exact .inl ⟨rfl, h2⟩
      · exact .inr h
    · exact .inr (List.mem_cons_of_mem _ h)
    · rcases List.mem_cons.1 h with rfl | h
      · exact .inl ⟨rfl, h4⟩
      · exact .inr (List.mem_cons_of_mem _ h)
    · rcases List.mem_cons.1 h with rfl | h
      · exact .inr (by simp)
      · exact (ih h).imp id (List.mem_cons_of_mem _)

theorem memRead_memWrite_same {m : Memory} {k : Nat} {v : Nat} (hm : Memory.wf m = true) :
    memRead (memWrite m k v) k = v := by
  induction m with
  | nil =>
    unfold memWrite
    split
    · next hv => simp [memRead, hv]
    · simp [memRead]
  | cons a m ih =>
    obtain ⟨hlt, -, hwf⟩ := (Memory.wf_cons a m).1 hm
    unfold memWrite
    split_ifs with h1 h2 h3 h4
    · rw [h2]
      refine memRead_unlisted fun b hb => ?_
      rcases List.mem_cons.1 hb with rfl | hb
      · simpa using (Nat.ne_of_lt h1).symm
      · have := hlt b hb; omega
    · simp [memRead]
    · rw [h4]
      exact memRead_unlisted fun b hb => by have := hlt b hb; omega
    · simp [memRead]
    · simp only [memRead, if_neg h3, ih hwf]

theorem memRead_memWrite_ne {m : Memory} {k j : Nat} {v : Nat} (hj : j ≠ k) :
    memRead (memWrite m k v) j = memRead m j := by
  induction m with
  | nil =>
    unfold memWrite
    split
    · rfl
    · simp [memRead, hj]
  | cons a m ih =>
    unfold memWrite
    split_ifs with h1 h2 h3 h4
    · rfl
    · simp [memRead, hj]
    · have : j ≠ a.1 := h3 ▸ hj
      simp [memRead, this]
    · have : j ≠ a.1 := h3 ▸ hj
      simp [memRead, this, hj]
    · simp only [memRead, ih]

/-- Every write keeps the canonical form. -/
theorem memWrite_wf {m : Memory} (k : Nat) (v : Nat) (hm : Memory.wf m = true) :
    Memory.wf (memWrite m k v) = true := by
  induction m with
  | nil =>
    unfold memWrite
    split
    · exact Memory.wf_nil
    · next hv => exact (Memory.wf_cons _ _).2 ⟨by simp, hv, Memory.wf_nil⟩
  | cons a m ih =>
    obtain ⟨hlt, hne, hwf⟩ := (Memory.wf_cons a m).1 hm
    unfold memWrite
    split_ifs with h1 h2 h3 h4
    · exact hm
    · refine (Memory.wf_cons _ _).2 ⟨fun b hb => ?_, h2, hm⟩
      rcases List.mem_cons.1 hb with rfl | hb
      · exact h1
      · exact h1.trans (hlt b hb)
    · exact hwf
    · exact (Memory.wf_cons _ _).2 ⟨fun b hb => h3 ▸ hlt b hb, h4, hwf⟩
    · refine (Memory.wf_cons _ _).2 ⟨fun b hb => ?_, hne, ih hwf⟩
      rcases mem_memWrite hb with ⟨rfl, -⟩ | hb
      · change a.1 < k; omega
      · exact hlt b hb

/-- Two memories in canonical form with the same reads are the same list. -/
theorem Memory.ext_of_wf {m n : Memory} (hm : Memory.wf m = true) (hn : Memory.wf n = true)
    (h : ∀ k, memRead m k = memRead n k) : m = n := by
  induction m generalizing n with
  | nil =>
    cases n with
    | nil => rfl
    | cons b n =>
      have := h b.1
      simp only [memRead, if_true] at this
      exact absurd this.symm ((Memory.wf_cons b n).1 hn).2.1
  | cons a m ih =>
    obtain ⟨hlt, hne, hwf⟩ := (Memory.wf_cons a m).1 hm
    cases n with
    | nil =>
      have := h a.1
      simp only [memRead, if_true] at this
      exact absurd this hne
    | cons b n =>
      obtain ⟨hlt', hne', hwf'⟩ := (Memory.wf_cons b n).1 hn
      have key : a.1 = b.1 := by
        by_contra hab
        rcases Nat.lt_or_gt_of_ne hab with hab' | hab'
        · have h0 := h a.1
          rw [memRead_unlisted (m := b :: n)] at h0
          · simp only [memRead, if_true] at h0; exact hne h0
          · intro c hc
            rcases List.mem_cons.1 hc with rfl | hc
            · exact Ne.symm hab
            · have := hlt' c hc; omega
        · have h0 := h b.1
          rw [memRead_unlisted (m := a :: m)] at h0
          · simp only [memRead, if_true] at h0; exact hne' h0.symm
          · intro c hc
            rcases List.mem_cons.1 hc with rfl | hc
            · exact hab
            · have := hlt c hc; omega
      have hv : a.2 = b.2 := by
        have h0 := h a.1
        simpa only [memRead, if_true, if_pos key] using h0
      have hmn : m = n := ih hwf hwf' fun k => by
        by_cases hk : k = a.1
        · subst hk
          rw [memRead_unlisted fun c hc => by have := hlt c hc; omega,
            memRead_unlisted fun c hc => by have := hlt' c hc; omega]
        · have h0 := h k
          simpa only [memRead, if_neg hk, if_neg (key ▸ hk)] using h0
      rw [hmn, Prod.ext key hv]

/-- What bounds every listed slot bounds every read. -/
theorem memRead_lt {m : Memory} {B : Nat} (hB : 0 < B) (h : ∀ a ∈ m, a.2 < B) (k : Nat) :
    memRead m k < B := by
  rcases memRead_mem (m := m) (k := k) with h0 | h0
  · rw [h0]; exact hB
  · exact h _ h0

/-- Reset's memory has the canonical form. -/
theorem reset_wbuf_wf : Memory.wf State.reset.wbuf = true := by decide

/-! ### Through the state -/

theorem slotAt_writeSlot_same {s : State} (h : Memory.wf s.wbuf = true) (k : Nat) (v : Nat) :
    (s.writeSlot k v).slotAt k = v := memRead_memWrite_same h

theorem slotAt_writeSlot_ne {s : State} {j k : Nat} (h : j ≠ k) (v : Nat) :
    (s.writeSlot k v).slotAt j = s.slotAt j := memRead_memWrite_ne h

end Sys2Proof.Machine
end

