-- ==== Sys2Proof/Laws/Ops.lean ====
section
/-! SUPPORT. One lemma per shared operation that says once all it can do. -/

namespace Sys2Proof.Machine

/-! ### The requester records -/

theorem curAt_setCur (s : State) (p q : Nat) (c : Cur) :
    (s.setCur p c).curAt q = if q = p ∧ p < s.cur.length then c else s.curAt q := by
  unfold State.curAt
  rw [State.setCur_cur]
  simp only [List.getD_eq_getElem?_getD, List.getElem?_set]
  by_cases hq : p = q
  · subst hq
    by_cases hp : p < s.cur.length <;> simp [hp]
  · simp [hq, Ne.symm hq]

theorem curAt_setCur_same {s : State} {p : Nat} (h : p < s.cur.length) (c : Cur) :
    (s.setCur p c).curAt p = c := by simp [curAt_setCur, h]

theorem curAt_setCur_ne {s : State} {p q : Nat} (h : q ≠ p) (c : Cur) :
    (s.setCur p c).curAt q = s.curAt q := by simp [curAt_setCur, h]

/-- A requester outside the list has no command in progress. -/
theorem curAt_of_length_le {s : State} {p : Nat} (h : s.cur.length ≤ p) : s.curAt p = Cur.ready := by
  unfold State.curAt
  rw [List.getD_eq_default _ _ h]

/-- A requester with a command in progress is one of the list. -/
theorem lt_length_of_stage {s : State} {p : Nat} (h : (s.curAt p).stage ≠ .idle) : p < s.cur.length := by
  by_contra hp
  exact h (by rw [curAt_of_length_le (Nat.le_of_not_lt hp)]; rfl)

theorem curAt_mem {s : State} {p : Nat} (h : p < s.cur.length) : s.curAt p ∈ s.cur := by
  unfold State.curAt
  rw [List.getD_eq_getElem _ _ h]
  exact List.getElem_mem h

/-! ### The Pixel Store -/

theorem storePixel_inRange {s : State} {idx : BitVec 32} (h : idx.toNat < s.cfg.ledCount) (px : Pixel) :
    s.storePixel idx px = s.withPix (s.pix.set idx.toNat px) := by
  simp [State.storePixel, indexInRange, h]

theorem storePixel_outOfRange {s : State} {idx : BitVec 32} (h : ¬ idx.toNat < s.cfg.ledCount) (px : Pixel) :
    s.storePixel idx px = s := by
  simp [State.storePixel, indexInRange, h]

/-- SET_PIXEL's write changes the Pixel Store only. -/
theorem storePixel_frame (s : State) (idx : BitVec 32) (px : Pixel) :
    s.storePixel idx px = s.withPix (s.storePixel idx px).pix := by
  unfold State.storePixel
  split <;> rfl

theorem pixAt_set (s : State) (i j : Nat) (px : Pixel) :
    (s.withPix (s.pix.set i px)).pixAt j = if j = i ∧ i < s.pix.length then px else s.pixAt j := by
  unfold State.pixAt
  rw [State.withPix_pix]
  simp only [List.getD_eq_getElem?_getD, List.getElem?_set]
  by_cases hq : i = j
  · subst hq
    by_cases hp : i < s.pix.length <;> simp [hp]
  · simp [hq, Ne.symm hq]

theorem pixAt_zeroPixels (s : State) (i : Nat) : s.zeroPixels.pixAt i = Pixel.off := by
  unfold State.pixAt
  rw [State.zeroPixels_pix, List.getD_eq_getElem?_getD, List.getElem?_replicate]
  split <;> rfl

/-! ### The issue step -/

/-- A command that is accepted found its port idle, and had its effect. -/
theorem onIdlePort_next {p : Nat} {s t : State} {effect : State → State}
    (h : onIdlePort p s effect = .next t) :
    p < s.cfg.nReq ∧ (s.curAt p).stage = .idle ∧ t = effect s := by
  unfold onIdlePort at h
  split_ifs at h with hp hs
  exact ⟨hp, hs, (Host.Outcome.next.inj h).symm⟩

theorem onIdlePort_of_idle {p : Nat} {s : State} (hp : p < s.cfg.nReq)
    (hs : (s.curAt p).stage = .idle) (effect : State → State) :
    onIdlePort p s effect = .next (effect s) := by
  simp [onIdlePort, hp, hs]

theorem onIdlePort_of_inProgress {p : Nat} {s : State} (hp : p < s.cfg.nReq)
    (hs : (s.curAt p).stage ≠ .idle) (effect : State → State) :
    onIdlePort p s effect = .refused .portInProgress := by
  simp [onIdlePort, hp, hs]

theorem onIdlePort_of_noPort {p : Nat} {s : State} (hp : ¬ p < s.cfg.nReq) (effect : State → State) :
    onIdlePort p s effect = .refused .noSuchPort := by
  simp [onIdlePort, hp]

/-! ### The primitives -/

theorem startTransfer_next {s t : State} (h : startTransfer s = .next t) :
    s.xfer.active = false ∧ t = s.withXfer { active := true, pos := 0 } := by
  unfold startTransfer at h
  split_ifs at h with ha
  exact ⟨by simpa using ha, (Host.Outcome.next.inj h).symm⟩

theorem armStep_next {p : Nat} {s t : State} (h : armStep p s = .next t) :
    s.xfer.active = false ∧ t = (s.withXfer { active := true, pos := 0 }).setCur p Cur.ready := by
  unfold armStep at h
  split at h
  · next u hu =>
    obtain ⟨ha, rfl⟩ := startTransfer_next hu
    exact ⟨ha, (Host.Outcome.next.inj h).symm⟩
  · cases h
  · cases h

theorem transferFinished_iff (s : State) :
    s.transferFinished = true ↔ s.xfer.active = true ∧ s.xfer.pos = s.cfg.bufLen := by
  simp [State.transferFinished]

theorem takeUp_eq (s : State) :
    takeUp s = (s.withAgenda (takeUp s).agenda).withDraws (takeUp s).draws := by
  unfold takeUp
  split <;> rfl

end Sys2Proof.Machine
end

