-- ==== Sys2Proof/Laws/Encode.lean ====
section
/-! SUPPORT. The arithmetic of the slot value function (spec 41_waveform_encoder.md R90, R97). -/

namespace Sys2Proof.Machine

/-- `v[b]` in the bit vector's own terms (R97). -/
theorem bitOf_eq_getLsbD (v : Byte) (b : Nat) : bitOf v b = v.getLsbD b := by
  rw [bitOf, BitVec.getLsbD, Nat.testBit_eq_decide_div_mod_eq]
  rfl

theorem bitOf_zero (b : Nat) : bitOf 0 b = false := by simp [bitOf_eq_getLsbD]

theorem enc_data {c : Config} {k : Nat} (h : k < c.dataSlots) (P : List Pixel) :
    enc c k P = pulse c (bitOf ((P.getD (slotLed k) Pixel.off).ch (slotChan k)) (slotBit k)) := by
  simp [enc, h]

theorem enc_reset {c : Config} {k : Nat} (h : c.dataSlots ≤ k) (P : List Pixel) : enc c k P = 0 := by
  simp [enc, Nat.not_lt.2 h]

/-- A data slot's value is one of the two pulse constants. -/
theorem pulse_cases (c : Config) (bit : Bool) : pulse c bit = c.cmpShort ∨ pulse c bit = c.cmpLong := by
  cases bit <;> simp [pulse]

/-- Every value of `enc` is 0 or a pulse constant. -/
theorem enc_cases (c : Config) (k : Nat) (P : List Pixel) :
    enc c k P = 0 ∨ enc c k P = c.cmpShort ∨ enc c k P = c.cmpLong := by
  unfold enc
  split
  · exact .inr (pulse_cases c _)
  · exact .inl rfl

/-- The constraints of the parameters, one by one. -/
theorem Config.wf_iff (c : Config) :
    c.wf = true ↔ 1 ≤ c.ledCount ∧ 1 ≤ c.resetSlots ∧ 2 ≤ c.slotW ∧ 1 ≤ c.nReq ∧ 0 < c.cmpShort ∧
      c.cmpShort < c.cmpLong ∧ c.cmpLong < 2 ^ c.slotW ∧
      (∀ n, c.period = some n → 4 ≤ n ∧ c.cmpLong < n) ∧ c.timId < 2 ^ c.idW := by
  unfold Config.wf
  cases hp : c.period <;> simp [and_assoc]

theorem bufLen_pos {c : Config} (h : c.wf = true) : 0 < c.bufLen := by
  have := ((Config.wf_iff c).1 h).2.1
  unfold Config.bufLen
  omega

/-- Every value of `enc` fits a slot. -/
theorem enc_lt {c : Config} (h : c.wf = true) (k : Nat) (P : List Pixel) : enc c k P < 2 ^ c.slotW := by
  obtain ⟨-, -, -, -, -, h1, h2, -⟩ := (Config.wf_iff c).1 h
  rcases enc_cases c k P with h0 | h0 | h0 <;> omega

@[simp] theorem afterSlot_k (c : Config) (k : Nat) : (afterSlot c k).k = k + 1 := rfl

theorem afterSlot_last {c : Config} {k : Nat} (h : k + 1 = c.bufLen) :
    afterSlot c k = { stage := .zero, k := k + 1 } := by
  simp [afterSlot, h]

theorem afterSlot_more {c : Config} {k : Nat} (h : k + 1 ≠ c.bufLen) :
    afterSlot c k = { stage := .enc, k := k + 1 } := by
  simp [afterSlot, h]

end Sys2Proof.Machine
end

