-- ==== Sys2Proof/Laws/Exec.lean ====
section
/-! SUPPORT. Each meaning as the shared operation it is. -/

namespace Sys2Proof.Machine

theorem exec_init (p : Nat) (s : State) :
    exec (.init p) s = onIdlePort p s (fun s => s.zeroPixels.enterWait p) := rfl

theorem exec_setPixel (p : Nat) (idx : BitVec 32) (r g b : Byte) (s : State) :
    exec (.setPixel p idx r g b) s =
      onIdlePort p s (fun s => s.storePixel idx (pixelOfInput r g b)) := rfl

theorem exec_clear (p : Nat) (s : State) :
    exec (.clear p) s = onIdlePort p s (fun s => s.zeroPixels) := rfl

theorem exec_showCmd (p : Nat) (s : State) :
    exec (.showCmd p) s = onIdlePort p s (fun s => s.enterWait p) := rfl

theorem exec_reserved (p : Nat) (op : BitVec 4) (s : State) :
    exec (.reserved p op) s = onIdlePort p s (fun s => s) := rfl

theorem exec_complete (id : Nat) (s : State) :
    exec (.complete id) s =
      if id = s.cfg.timId then .next (returnFromCompletion (takeCompletion s)) else .next s := rfl

/-- The issue step raises no fault (R140). -/
theorem onIdlePort_ne_fault (p : Nat) (s : State) (effect : State → State) (r : Fault) :
    onIdlePort p s effect ≠ .fault r := by
  unfold onIdlePort
  intro h
  split at h
  · split at h <;> cases h
  · cases h

/-- No command word and no event word raises a fault (R140). -/
theorem exec_ne_fault (i : Instr) (s : State) (r : Fault) : exec i s ≠ .fault r := by
  cases i with
  | init p => rw [exec_init]; exact onIdlePort_ne_fault _ _ _ _
  | setPixel p idx red green blue => rw [exec_setPixel]; exact onIdlePort_ne_fault _ _ _ _
  | clear p => rw [exec_clear]; exact onIdlePort_ne_fault _ _ _ _
  | showCmd p => rw [exec_showCmd]; exact onIdlePort_ne_fault _ _ _ _
  | reserved p op => rw [exec_reserved]; exact onIdlePort_ne_fault _ _ _ _
  | complete id =>
    rw [exec_complete]
    intro h
    split at h <;> cases h

end Sys2Proof.Machine
end

