-- ==== Sys2Proof/Laws/PerInstr.lean ====
section
/-! SUPPORT. Facts about each instruction as syntax. -/

namespace Sys2Proof.Laws

/-- The opcode that the map of spec 30_encoding.md R61 gives an instruction; an event has none. -/
def opcodeOf : Instr → Option (BitVec 4)
  | .init _ => some 0x1#4
  | .setPixel _ _ _ _ _ => some 0x2#4
  | .clear _ => some 0x3#4
  | .showCmd _ => some 0x4#4
  | .reserved _ op => some op
  | .complete _ => none

/-- The canonical input of an instruction carries the opcode of R61 in bits 63 to 60 and 0 in the
reserved bits 59 to 56 (R60, R63); an event word is the identity (R67). -/
def CanonicalWord.Statement (i : Instr) : Prop :=
  match encode i with
  | .command _ w => opcodeOf i = some (fieldOp w) ∧ fieldRsv w = 0#4
  | .event w => i = .complete w

theorem fieldOp_packCommand (op rsv : BitVec 4) (idx : BitVec 32) (r g b : Byte) :
    fieldOp (packCommand op rsv idx r g b) = op := by
  unfold fieldOp packCommand
  ext i hi
  simp only [BitVec.getElem_extractLsb', BitVec.getLsbD_append]
  rw [if_neg (by omega), if_neg (by omega), if_neg (by omega), if_neg (by omega), if_neg (by omega),
    show 60 + i - 8 - 8 - 8 - 32 - 4 = i by omega, BitVec.getLsbD_eq_getElem hi]

theorem fieldRsv_packCommand (op rsv : BitVec 4) (idx : BitVec 32) (r g b : Byte) :
    fieldRsv (packCommand op rsv idx r g b) = rsv := by
  unfold fieldRsv packCommand
  ext i hi
  simp only [BitVec.getElem_extractLsb', BitVec.getLsbD_append]
  rw [if_neg (by omega), if_neg (by omega), if_neg (by omega), if_neg (by omega), if_pos (by omega),
    show 56 + i - 8 - 8 - 8 - 32 = i by omega, BitVec.getLsbD_eq_getElem hi]

theorem CanonicalWord.init (port : Nat) : CanonicalWord.Statement (.init port) :=
  ⟨by rw [packPlain, fieldOp_packCommand]; rfl, fieldRsv_packCommand ..⟩

theorem CanonicalWord.setPixel (port : Nat) (idx : BitVec 32) (red green blue : Byte) :
    CanonicalWord.Statement (.setPixel port idx red green blue) :=
  ⟨by rw [fieldOp_packCommand]; rfl, fieldRsv_packCommand ..⟩

theorem CanonicalWord.clear (port : Nat) : CanonicalWord.Statement (.clear port) :=
  ⟨by rw [packPlain, fieldOp_packCommand]; rfl, fieldRsv_packCommand ..⟩

theorem CanonicalWord.showCmd (port : Nat) : CanonicalWord.Statement (.showCmd port) :=
  ⟨by rw [packPlain, fieldOp_packCommand]; rfl, fieldRsv_packCommand ..⟩

theorem CanonicalWord.reserved (port : Nat) (op : BitVec 4) :
    CanonicalWord.Statement (.reserved port op) :=
  ⟨by rw [packPlain, fieldOp_packCommand]; rfl, fieldRsv_packCommand ..⟩

theorem CanonicalWord.complete (id : Nat) : CanonicalWord.Statement (.complete id) := by
  unfold CanonicalWord.Statement encode
  rfl

end Sys2Proof.Laws
end

