-- ==== Sys2Proof/Laws/Step.lean ====
section
/-! SUPPORT. The one inversion lemma of the step: if it answers a next state, one of the rows of spec
42_transmission_controller.md R118 was taken. -/

namespace Sys2Proof.Machine

/-! ### Taking a move up touches the model's own fields only -/

section
variable (s : State)

@[simp] theorem takeUp_cfg : (takeUp s).cfg = s.cfg := by unfold takeUp; split <;> rfl
@[simp] theorem takeUp_pix : (takeUp s).pix = s.pix := by unfold takeUp; split <;> rfl
@[simp] theorem takeUp_wbuf : (takeUp s).wbuf = s.wbuf := by unfold takeUp; split <;> rfl
@[simp] theorem takeUp_busy : (takeUp s).busy = s.busy := by unfold takeUp; split <;> rfl
@[simp] theorem takeUp_cmp : (takeUp s).cmp = s.cmp := by unfold takeUp; split <;> rfl
@[simp] theorem takeUp_cur : (takeUp s).cur = s.cur := by unfold takeUp; split <;> rfl
@[simp] theorem takeUp_xfer : (takeUp s).xfer = s.xfer := by unfold takeUp; split <;> rfl
@[simp] theorem takeUp_trace : (takeUp s).trace = s.trace := by unfold takeUp; split <;> rfl

@[simp] theorem takeUp_curAt (p : Nat) : (takeUp s).curAt p = s.curAt p := by
  simp [State.curAt]

@[simp] theorem takeUp_slotAt (k : Nat) : (takeUp s).slotAt k = s.slotAt k := by
  simp [State.slotAt]

@[simp] theorem takeUp_pixAt (i : Nat) : (takeUp s).pixAt i = s.pixAt i := by
  simp [State.pixAt]

@[simp] theorem takeUp_transferFinished : (takeUp s).transferFinished = s.transferFinished := by
  simp [State.transferFinished]

end

/-! ### Decoding -/

theorem decode_command {c : Config} {p : Nat} {w : CommandWord} {i : Instr}
    (h : decode c (.command p w) = .ok i) : p < c.nReq ∧ i = decodeCommand p w := by
  simp only [decode] at h
  split_ifs at h with hp
  exact ⟨hp, (Except.ok.inj h).symm⟩

theorem decode_event {c : Config} {w : Nat} {i : Instr} (h : decode c (.event w) = .ok i) :
    w < 2 ^ c.idW ∧ i = .complete w := by
  simp only [decode] at h
  split_ifs at h with hw
  exact ⟨hw, (Except.ok.inj h).symm⟩

/-- A word on a port decodes to a command of that port, never to the completion event. -/
theorem decodeCommand_cases (p : Nat) (w : CommandWord) :
    decodeCommand p w = .init p ∨
    decodeCommand p w = .setPixel p (fieldIdx w) (fieldRed w) (fieldGreen w) (fieldBlue w) ∨
    decodeCommand p w = .clear p ∨ decodeCommand p w = .showCmd p ∨
    decodeCommand p w = .reserved p (fieldOp w) := by
  unfold decodeCommand
  split_ifs <;> simp

/-! ### The completion event -/

theorem execComplete_own {id : Nat} {s : State} (h : id = s.cfg.timId) :
    execComplete id s = .next (takeCompletion s) := by
  simp [execComplete, h, returnFromCompletion]

theorem execComplete_foreign {id : Nat} {s : State} (h : id ≠ s.cfg.timId) :
    execComplete id s = .next s := by
  simp [execComplete, h]

theorem endFinishedTransfer_finished {s : State} (h : s.transferFinished = true) :
    endFinishedTransfer s.cfg.timId s = s.endTransfer := by
  simp [endFinishedTransfer, h]

theorem endFinishedTransfer_unfinished (id : Nat) {s : State} (h : s.transferFinished = false) :
    endFinishedTransfer id s = s := by
  simp [endFinishedTransfer, h]

theorem endFinishedTransfer_foreign {id : Nat} (s : State) (h : id ≠ s.cfg.timId) :
    endFinishedTransfer id s = s := by
  simp [endFinishedTransfer, h]

/-! ### The rows of R118, forwards -/

theorem requesterStep_idle {p : Nat} {s : State} (h : (s.curAt p).stage = .idle) :
    requesterStep p s = .next s := by
  simp only [requesterStep, h]

theorem requesterStep_waiting {p : Nat} {s : State} (h : (s.curAt p).stage = .wait) (hb : s.busy = true) :
    requesterStep p s = .next s := by
  simp only [requesterStep, h, grantStep, testAndSetBusy, hb, if_true]

theorem requesterStep_granted {p : Nat} {s : State} (h : (s.curAt p).stage = .wait) (hb : s.busy = false) :
    requesterStep p s = .next ((s.withBusy true).setCur p { stage := .enc, k := 0 }) := by
  simp [requesterStep, h, grantStep, testAndSetBusy, hb]

theorem requesterStep_enc {p : Nat} {s : State} (h : (s.curAt p).stage = .enc)
    (hk : (s.curAt p).k < s.cfg.bufLen) :
    requesterStep p s = .next ((s.writeSlot (s.curAt p).k (enc s.cfg (s.curAt p).k s.pix)).setCur p
      (afterSlot s.cfg (s.curAt p).k)) := by
  simp only [requesterStep, h, encStep, if_pos hk]

theorem requesterStep_zero {p : Nat} {s : State} (h : (s.curAt p).stage = .zero) :
    requesterStep p s = .next ((s.setCompare 0).setCur p { stage := .arm, k := (s.curAt p).k }) := by
  simp only [requesterStep, h, zeroStep]

theorem requesterStep_arm {p : Nat} {s : State} (h : (s.curAt p).stage = .arm)
    (ha : s.xfer.active = false) :
    requesterStep p s = .next ((s.withXfer { active := true, pos := 0 }).setCur p Cur.ready) := by
  simp [requesterStep, h, armStep, startTransfer, ha]

theorem engineStep_slot {s : State} (ha : s.xfer.active = true) (hp : s.xfer.pos < s.cfg.bufLen) :
    engineStep s = .next (slotStep s) := by
  simp [engineStep, ha, hp]

/-! ### The inversion -/

/-- What a move `m` taken up in `u` may make of it: the rows of R118, with the holds. -/
inductive Caused : Move → State → State → Prop
  | init {u p w} : decode u.cfg (.command p w) = .ok (.init p) → (u.curAt p).stage = .idle →
      Caused (.input (.command p w)) u (u.zeroPixels.enterWait p)
  | setPixel {u p w idx r g b} : decode u.cfg (.command p w) = .ok (.setPixel p idx r g b) →
      (u.curAt p).stage = .idle →
      Caused (.input (.command p w)) u (u.storePixel idx (pixelOfInput r g b))
  | clear {u p w} : decode u.cfg (.command p w) = .ok (.clear p) → (u.curAt p).stage = .idle →
      Caused (.input (.command p w)) u u.zeroPixels
  | showCmd {u p w} : decode u.cfg (.command p w) = .ok (.showCmd p) → (u.curAt p).stage = .idle →
      Caused (.input (.command p w)) u (u.enterWait p)
  | reserved {u p w op} : decode u.cfg (.command p w) = .ok (.reserved p op) →
      (u.curAt p).stage = .idle → Caused (.input (.command p w)) u u
  | foreign {u id} : id ≠ u.cfg.timId → Caused (.input (.event id)) u u
  | delivered {u} : u.transferFinished = true →
      Caused (.input (.event u.cfg.timId)) u (takeCompletion u.endTransfer)
  | spurious {u} : u.transferFinished = false →
      Caused (.input (.event u.cfg.timId)) u (takeCompletion u)
  | nothingToDo {u p} : (u.curAt p).stage = .idle → Caused (.requester p) u u
  | waiting {u p} : (u.curAt p).stage = .wait → u.busy = true → Caused (.requester p) u u
  | granted {u p} : (u.curAt p).stage = .wait → u.busy = false →
      Caused (.requester p) u ((u.withBusy true).setCur p { stage := .enc, k := 0 })
  | encoded {u p} : (u.curAt p).stage = .enc → (u.curAt p).k < u.cfg.bufLen →
      Caused (.requester p) u
        ((u.writeSlot (u.curAt p).k (enc u.cfg (u.curAt p).k u.pix)).setCur p
          (afterSlot u.cfg (u.curAt p).k))
  | encodeHeld {u p} : (u.curAt p).stage = .enc → ¬ (u.curAt p).k < u.cfg.bufLen →
      Caused (.requester p) u u
  | zeroed {u p} : (u.curAt p).stage = .zero →
      Caused (.requester p) u ((u.setCompare 0).setCur p { stage := .arm, k := (u.curAt p).k })
  | armed {u p} : (u.curAt p).stage = .arm → u.xfer.active = false →
      Caused (.requester p) u ((u.withXfer { active := true, pos := 0 }).setCur p Cur.ready)
  | engineQuiet {u} : u.xfer.active = false → Caused .engine u u
  | engineHeld {u} : u.xfer.active = true → u.cfg.bufLen < u.xfer.pos → Caused .engine u u
  | slot {u} : u.xfer.active = true → u.xfer.pos < u.cfg.bufLen → Caused .engine u (slotStep u)
  | completion {u} : u.transferFinished = true → Caused .engine u (takeCompletion u.endTransfer)
  | reset {u} : Caused .reset u (resetStep u)

theorem arrive_next {x : Input} {u t : State} (h : arrive x u = .next t) : Caused (.input x) u t := by
  unfold arrive at h
  split at h
  · next i hi =>
    cases x with
    | command p w =>
      obtain ⟨hp, rfl⟩ := decode_command hi
      rcases decodeCommand_cases p w with h0 | h0 | h0 | h0 | h0 <;> rw [h0] at h hi <;>
        simp only [besideInstr, exec, execInit, execSetPixel, execClear, execShow, execReserved] at h <;>
        obtain ⟨-, hs, rfl⟩ := onIdlePort_next h
      · exact .init hi hs
      · exact .setPixel hi hs
      · exact .clear hi hs
      · exact .showCmd hi hs
      · exact .reserved hi hs
    | event id =>
      obtain ⟨-, rfl⟩ := decode_event hi
      simp only [besideInstr, exec] at h
      by_cases hid : id = u.cfg.timId
      · subst hid
        cases hf : u.transferFinished
        · rw [endFinishedTransfer_unfinished _ hf, execComplete_own rfl] at h
          cases h; exact .spurious hf
        · rw [endFinishedTransfer_finished hf, execComplete_own (id := u.cfg.timId) (s := u.endTransfer) rfl] at h
          cases h; exact .delivered hf
      · rw [endFinishedTransfer_foreign _ hid, execComplete_foreign hid] at h
        cases h; exact .foreign hid
  · cases h

theorem requesterStep_next {p : Nat} {u t : State} (h : requesterStep p u = .next t) :
    Caused (.requester p) u t := by
  unfold requesterStep at h
  split at h
  · next hs => cases h; exact .nothingToDo hs
  · next hs =>
    cases h
    unfold grantStep testAndSetBusy
    cases hb : u.busy
    · simpa [hb] using Caused.granted hs hb
    · simpa [hb] using Caused.waiting hs hb
  · next hs =>
    cases h
    unfold encStep
    split
    · next hk => exact .encoded hs hk
    · next hk => exact .encodeHeld hs hk
  · next hs => cases h; exact .zeroed hs
  · next hs => obtain ⟨ha, rfl⟩ := armStep_next h; exact .armed hs ha

/-- The COMPLETION step of a finished transfer. -/
theorem completionStep_of_finished {u : State} (h : u.transferFinished = true) :
    completionStep u = .next (takeCompletion u.endTransfer) := by
  rw [completionStep, endFinishedTransfer_finished h, execComplete_own (id := u.cfg.timId) (s := u.endTransfer) rfl]

theorem engineStep_next {u t : State} (h : engineStep u = .next t) : Caused .engine u t := by
  unfold engineStep at h
  split_ifs at h with ha h1 h2
  · cases h; exact .slot ha h1
  · have hf := (transferFinished_iff u).2 ⟨ha, h2⟩
    rw [completionStep_of_finished hf] at h
    cases h; exact .completion hf
  · cases h; exact .engineHeld ha (by omega)
  · cases h; exact .engineQuiet (by simpa using ha)

theorem runMove_next {m : Move} {u t : State} (h : runMove m u = .next t) : Caused m u t := by
  cases m with
  | input x => exact arrive_next h
  | requester p => exact requesterStep_next h
  | engine => exact engineStep_next h
  | reset => cases h; exact .reset

/-- Everything a step can do. -/
theorem step_next {s t : State} (h : step s = .next t) :
    s.cfg.wf = true ∧ Caused (nextMove s) (takeUp s) t := by
  unfold step at h
  split_ifs at h with hc
  exact ⟨hc, runMove_next h⟩

/-- What a free choice may be. -/
theorem freeMove_cases {s : State} (hn : 0 < s.cfg.nReq) :
    (∃ p, p < s.cfg.nReq ∧ freeMove s = .requester p) ∨ freeMove s = .engine ∨
    (∃ p w, p < s.cfg.nReq ∧ (s.curAt p).stage = .idle ∧ freeMove s = .input (.command p w)) ∨
    (∃ id, id < 2 ^ s.cfg.idW ∧ id ≠ s.cfg.timId ∧ freeMove s = .input (.event id)) ∨
    freeMove s = .reset := by
  have hp := Nat.mod_lt (Config.freePort s.draws) hn
  have hid := Nat.mod_lt (Config.freeIdentity s.draws) (Nat.two_pow_pos s.cfg.idW)
  unfold freeMove
  split
  · exact .inl ⟨_, hp, rfl⟩
  · exact .inr (.inl rfl)
  · unfold freeCommand
    split_ifs with h
    · exact .inr (.inr (.inl ⟨_, _, hp, h, rfl⟩))
    · exact .inl ⟨_, hp, rfl⟩
  · unfold freeEvent
    split_ifs with h
    · exact .inr (.inl rfl)
    · exact .inr (.inr (.inr (.inl ⟨_, hid, h, rfl⟩)))
  · exact .inr (.inr (.inr (.inr rfl)))

/-- A step is that of its next move, put at the head of an agenda. -/
theorem step_eq_cons (s : State) :
    step s = step { s with agenda := nextMove s :: (takeUp s).agenda, draws := (takeUp s).draws } := by
  conv_lhs => rw [step, takeUp_eq s]
  rfl

/-! ### No rule reads the agenda -/

theorem onIdlePort_withAgenda {p : Nat} {u t : State} {effect : State → State} (a : List Move)
    (he : effect (u.withAgenda a) = (effect u).withAgenda a) (h : onIdlePort p u effect = .next t) :
    onIdlePort p (u.withAgenda a) effect = .next (t.withAgenda a) := by
  obtain ⟨hp, hs, rfl⟩ := onIdlePort_next h
  rw [onIdlePort_of_idle (s := u.withAgenda a) hp hs, he]

theorem requesterStep_withAgenda {p : Nat} {u t : State} (a : List Move) (h : requesterStep p u = .next t) :
    requesterStep p (u.withAgenda a) = .next (t.withAgenda a) := by
  have hcur : (u.withAgenda a).curAt p = u.curAt p := rfl
  simp only [requesterStep, hcur] at h ⊢
  split at h
  · cases h; rfl
  · cases h
    cases hb : u.busy
    · simp [grantStep, testAndSetBusy, hb]; rfl
    · simp [grantStep, testAndSetBusy, hb]
  · cases h
    simp only [encStep, hcur, State.withAgenda_cfg]
    split_ifs <;> rfl
  · cases h; rfl
  · obtain ⟨ha, rfl⟩ := armStep_next h
    simp only [armStep, startTransfer, State.withAgenda_xfer, ha]
    rfl

theorem engineStep_withAgenda {u t : State} (a : List Move) (h : engineStep u = .next t) :
    engineStep (u.withAgenda a) = .next (t.withAgenda a) := by
  by_cases ha : u.xfer.active = true
  · by_cases hk : u.xfer.pos < u.cfg.bufLen
    · rw [engineStep_slot ha hk] at h
      cases h
      exact engineStep_slot (s := u.withAgenda a) ha hk
    · by_cases hl : u.xfer.pos = u.cfg.bufLen
      · have hf := (transferFinished_iff u).2 ⟨ha, hl⟩
        simp only [engineStep, if_pos ha, if_neg hk, if_pos hl, completionStep_of_finished hf] at h
        cases h
        have hc : completionStep (u.withAgenda a) = .next ((takeCompletion u.endTransfer).withAgenda a) :=
          completionStep_of_finished (u := u.withAgenda a) hf
        simpa [engineStep, ha, hl] using hc
      · simp only [engineStep, if_pos ha, if_neg hk, if_neg hl] at h
        cases h
        simp [engineStep, ha, hk, hl]
  · simp only [engineStep, if_neg ha] at h
    cases h
    simp [engineStep, ha]

theorem execComplete_withAgenda {id : Nat} {u t : State} (a : List Move)
    (h : execComplete id (endFinishedTransfer id u) = .next t) :
    execComplete id (endFinishedTransfer id (u.withAgenda a)) = .next (t.withAgenda a) := by
  have he : endFinishedTransfer id (u.withAgenda a) = (endFinishedTransfer id u).withAgenda a := by
    unfold endFinishedTransfer
    by_cases hf : id = u.cfg.timId ∧ u.transferFinished = true
    · rw [if_pos hf, if_pos (show id = (u.withAgenda a).cfg.timId ∧ (u.withAgenda a).transferFinished = true from hf)]
      rfl
    · rw [if_neg hf, if_neg (show ¬ (id = (u.withAgenda a).cfg.timId ∧ (u.withAgenda a).transferFinished = true) from hf)]
  rw [he]
  generalize endFinishedTransfer id u = v at h
  by_cases hid : id = v.cfg.timId
  · rw [execComplete_own hid] at h
    rw [execComplete_own (s := v.withAgenda a) hid]
    cases h; rfl
  · rw [execComplete_foreign hid] at h
    rw [execComplete_foreign (s := v.withAgenda a) hid]
    cases h; rfl

/-- What a move does, it does under any agenda, and the agenda stays. -/
theorem runMove_withAgenda {m : Move} {u t : State} (a : List Move) (h : runMove m u = .next t) :
    runMove m (u.withAgenda a) = .next (t.withAgenda a) := by
  cases m with
  | reset => cases h; rfl
  | engine => exact engineStep_withAgenda a h
  | requester p => exact requesterStep_withAgenda a h
  | input x =>
    simp only [runMove, arrive, State.withAgenda_cfg] at h ⊢
    split at h
    · next i hi =>
      cases i with
      | complete id => exact execComplete_withAgenda a h
      | init p => exact onIdlePort_withAgenda (effect := fun s => s.zeroPixels.enterWait p) a rfl h
      | setPixel p idx r g b =>
        refine onIdlePort_withAgenda (effect := fun s => s.storePixel idx (pixelOfInput r g b)) a ?_ h
        cases hi : indexInRange u.cfg idx <;> simp [State.storePixel, hi, State.withPix, State.withAgenda]
      | clear p => exact onIdlePort_withAgenda (effect := fun s => s.zeroPixels) a rfl h
      | showCmd p => exact onIdlePort_withAgenda (effect := fun s => s.enterWait p) a rfl h
      | reserved p op => exact onIdlePort_withAgenda (effect := fun s => s) a rfl h
    · cases h

end Sys2Proof.Machine
end

