-- ==== Sys2Proof/Tests/Slice0.lean ====
section
/-! SUPPORT. Tests. Every expected result is the spec's: the vectors of spec 95_test_vectors.md, or a calculation by
hand from the rule the comment names. At the end, for every obligation with hypotheses, a state and operands that
meet them, one for each clause. -/

namespace Sys2Proof.Tests

open Sys2Proof Sys2Proof.Machine

/-! ### The well-formedness checks, each with a term it refuses -/

theorem test_tv_wf : Config.wf Config.tv = true := by decide
theorem test_tv2_wf : Config.wf Config.tv2 = true := by decide

/-- `LED_COUNT >= 1` (R5). -/
theorem test_wf_needs_a_led : Config.wf { Config.tv with ledCount := 0 } = false := by decide

/-- `RESET_SLOTS >= 1` (R7). -/
theorem test_wf_needs_a_reset_slot : Config.wf { Config.tv with resetSlots := 0 } = false := by decide

/-- `0 < CMP_SHORT` (R8). -/
theorem test_wf_needs_a_pulse : Config.wf { Config.tv with cmpShort := 0 } = false := by decide

/-- `CMP_SHORT < CMP_LONG` (R8). -/
theorem test_wf_needs_two_pulses : Config.wf { Config.tv with cmpShort := 64 } = false := by decide

/-- `CMP_LONG < 2^SLOT_W` (R8). -/
theorem test_wf_needs_the_width :
    Config.wf { Config.tv with slotW := 6 } = false ∧ Config.wf { Config.tv with slotW := 7 } = true := by decide

/-- `CMP_LONG < PERIOD` when it is given (R8). -/
theorem test_wf_needs_the_period :
    Config.wf { Config.tv with period := some 64 } = false ∧
    Config.wf { Config.tv with period := none } = true := by decide

/-- `PERIOD >= 4` (R9): the last row of the table of R70, refused. -/
theorem test_wf_refuses_period_three : Config.wf (Config.tv.withPeriod 3) = false := by decide

/-- `PERIOD >= 4` alone (R9): pulses that fit a period of 3. -/
theorem test_wf_needs_period_four :
    Config.wf { Config.tv with period := some 3, cmpShort := 1, cmpLong := 2 } = false ∧
    Config.wf { Config.tv with period := some 4, cmpShort := 1, cmpLong := 2 } = true := by decide

/-- `SLOT_W >= 2` (R10). With `SLOT_W = 1` the pulses cannot fit either. -/
theorem test_wf_needs_two_bits :
    Config.wf { Config.tv with slotW := 1, cmpShort := 1, cmpLong := 1, period := none } = false ∧
    Config.wf { Config.tv with slotW := 2, cmpShort := 1, cmpLong := 2, period := none } = true := by decide

/-- `N_REQ >= 1` (R11). -/
theorem test_wf_needs_a_port : Config.wf { Config.tv with nReq := 0 } = false := by decide

/-- `TIM_ID < 2^ID_W` (R12). -/
theorem test_wf_needs_the_identity : Config.wf { Config.tv with timId := 256 } = false := by decide

/-- Ports are below `N_REQ` (R11). -/
theorem test_instr_wf_port :
    Instr.wf Config.tv (.init 2) = false ∧ Instr.wf Config.tv (.setPixel 2 0 0 0 0) = false ∧
    Instr.wf Config.tv (.clear 2) = false ∧ Instr.wf Config.tv (.showCmd 2) = false ∧
    Instr.wf Config.tv (.reserved 2 0) = false := by decide

/-- A reserved word's opcode is none of 0x1 to 0x4 (R64). -/
theorem test_instr_wf_reserved :
    Instr.wf Config.tv (.reserved 0 1) = false ∧ Instr.wf Config.tv (.reserved 0 4) = false := by decide

/-- An identity has `ID_W` bits (R67). -/
theorem test_instr_wf_identity : Instr.wf Config.tv (.complete 256) = false := by decide

/-! ### Decoding, from words written out by R60 (vectors C1 to C14) -/

/-- `init`: opcode 0001 in bits 63..60 (C1). -/
theorem test_decode_init : decodeTableWord 64 0x1000000000000000 = some (.init 0) := by decide

/-- Fields of `set_pixel 1, 0x12, 0x34, 0x56`: 0010 0000, the index, red, green, blue (C3). -/
theorem test_decode_setPixel :
    decodeTableWord 64 0b0010000000000000000000000000000000000001000100100011010001010110 =
      some (.setPixel 0 1 0x12 0x34 0x56) := by decide

/-- An index of 32 ones is not truncated (C6). -/
theorem test_decode_setPixel_wide :
    decodeTableWord 64 0x20FFFFFFFF0A0B0C = some (.setPixel 0 4294967295 10 11 12) := by decide

/-- `rsv` is ignored (C10). -/
theorem test_decode_setPixel_rsv :
    decodeTableWord 64 0x2F00000000FF0000 = some (.setPixel 0 0 255 0 0) := by decide

/-- The colour fields are ignored (C14). -/
theorem test_decode_clear : decodeTableWord 64 0x3000000000ABCDEF = some (.clear 0) := by decide

/-- Every unused field is ignored (C9). -/
theorem test_decode_show : decodeTableWord 64 0x4FFFFFFFFFFFFFFF = some (.showCmd 0) := by decide

/-- C11, C12, C13. -/
theorem test_decode_reserved :
    decodeTableWord 64 0x0000000000000000 = some (.reserved 0 0x0) ∧
    decodeTableWord 64 0x5000000000000000 = some (.reserved 0 0x5) ∧
    decodeTableWord 64 0xFFFFFFFFFFFFFFFF = some (.reserved 0 0xF) := by decide

/-- The event words `complete 1` and `complete 7` (R67). -/
theorem test_decode_complete :
    decodeTableWord 8 0x01 = some (.complete 1) ∧ decodeTableWord 8 0x07 = some (.complete 7) := by decide

/-- A port that does not exist and an event word that is too wide are rejected by name (R11, R67). -/
theorem test_decode_rejects :
    decode Config.tv (.command 2 0x4000000000000000) = .error .noSuchPort ∧
    decode Config.tv (.event 256) = .error .notAnEventWord := ⟨rfl, rfl⟩

/-- The canonical words of C1, C2, C7 and C8 (R63). -/
theorem test_encode :
    encode (.init 0) = .command 0 0x1000000000000000 ∧
    encode (.setPixel 1 0 255 0 0) = .command 1 0x2000000000FF0000 ∧
    encode (.clear 0) = .command 0 0x3000000000000000 ∧
    encode (.showCmd 0) = .command 0 0x4000000000000000 := by decide

/-! ### The text form (R65) -/

theorem test_assemble_init : assemble ['i', 'n', 'i', 't'] = some (.input (.command 0 0x1000000000000000)) := by
  decide

/-- `p1: set_pixel 4, 0x12, 0, 3`. -/
theorem test_assemble_setPixel :
    assemble ['p', '1', ':', ' ', 's', 'e', 't', '_', 'p', 'i', 'x', 'e', 'l', ' ', '4', ',', ' ', '0', 'x', '1',
      '2', ',', ' ', '0', ',', ' ', '3'] = some (.input (.command 1 0x2000000004120003)) := by decide

/-- A colour of 256 is refused: it is below 256 by R65. -/
theorem test_assemble_refuses :
    assemble ['s', 'e', 't', '_', 'p', 'i', 'x', 'e', 'l', ' ', '4', ',', '2', '5', '6', ',', '0', ',', '3'] = none := by
  decide

theorem test_assemble_complete :
    assemble ['c', 'o', 'm', 'p', 'l', 'e', 't', 'e', ' ', '7'] = some (.input (.event 7)) ∧
    assemble ['r', 'e', 's', 'e', 't'] = some .reset := by decide

/-! ### One step each -/

/-- The state a meaning or a step answers with, where it answers with one. -/
def nextOf (r : Result) : Option State :=
  match r with
  | .next t => some t
  | .fault _ => none
  | .refused _ => none

/-- A state under TV from the columns of the vectors' tables. -/
def tvState (busy : Bool) (c0 c1 : Cur) (x : Xfer) (cmp : Nat) : State :=
  { State.reset with busy := busy, cur := [c0, c1], xfer := x, cmp := cmp }

def idleCur : Cur := { stage := .idle, k := 0 }
def waitCur : Cur := { stage := .wait, k := 0 }
def quiet : Xfer := { active := false, pos := 0 }

/-- The store of the vectors' start rows but for entry 1. -/
def withEntryOne (px : Pixel) : State :=
  { State.reset with
    pix := [{ green := 0, red := 0, blue := 0 }, px, { green := 0, red := 0, blue := 0 },
      { green := 0, red := 0, blue := 0 }] }

/-- P2, through the table word and the step. -/
theorem test_setPixel_stores :
    nextOf (step (State.reset.withFetchWord 64 0x2000000001123456)) =
      some (withEntryOne { green := 0x34, red := 0x12, blue := 0x56 }) := by decide

/-- P3: index = `LED_COUNT` is ignored; P4: so is a very large one. -/
theorem test_setPixel_out_of_range :
    nextOf (step ((withEntryOne { green := 0x34, red := 0x12, blue := 0x56 }).withFetchWord 64 0x2000000004010203)) =
      some (withEntryOne { green := 0x34, red := 0x12, blue := 0x56 }) ∧
    nextOf (exec (.setPixel 0 0xFFFFFFFF 10 11 12) (withEntryOne { green := 0x34, red := 0x12, blue := 0x56 })) =
      some (withEntryOne { green := 0x34, red := 0x12, blue := 0x56 }) := by decide

/-- P7. -/
theorem test_clear_zeroes :
    nextOf (step ((withEntryOne { green := 0x34, red := 0x12, blue := 0x56 }).withFetchWord 64 0x3000000000000000)) =
      some (withEntryOne { green := 0, red := 0, blue := 0 }) := by decide

/-- P10. -/
theorem test_reserved_does_nothing :
    nextOf (step ((withEntryOne { green := 0xAA, red := 0xBB, blue := 0xCC }).withFetchWord 64 0)) =
      some (withEntryOne { green := 0xAA, red := 0xBB, blue := 0xCC }) := by decide

/-- T1. -/
theorem test_show_waits :
    nextOf (step ((tvState false idleCur idleCur quiet 7).withFetchWord 64 0x4000000000000000)) =
      some (tvState false waitCur idleCur quiet 7) := by decide

/-- T7: the second SHOW, on port 1, with a transfer in flight. -/
theorem test_show_while_busy :
    nextOf (exec (.showCmd 1) (tvState true idleCur idleCur { active := true, pos := 0 } 0)) =
      some (tvState true idleCur waitCur { active := true, pos := 0 } 0) := by decide

/-- T15: a second INIT, during a transfer; `PIX` all zero, `BUSY` still 1. -/
theorem test_init_during_a_transfer :
    nextOf (exec (.init 1)
      { tvState true idleCur idleCur { active := true, pos := 60 } 32 with
        pix := (withEntryOne { green := 1, red := 2, blue := 3 }).pix }) =
      some (tvState true idleCur waitCur { active := true, pos := 60 } 32) := by decide

/-- T10: the completion event at the end of the transfer, while port 1 waits. -/
theorem test_complete_ends_the_transfer :
    nextOf (step ((tvState true idleCur waitCur { active := true, pos := 136 } 0).withFetchWord 8 1)) =
      some { tvState false idleCur waitCur { active := false, pos := 136 } 0 with trace := [0] } := by decide

/-- T12: a foreign identity. -/
theorem test_complete_foreign :
    nextOf (step ((tvState true idleCur waitCur { active := true, pos := 0 } 0).withFetchWord 8 7)) =
      some (tvState true idleCur waitCur { active := true, pos := 0 } 0) := by decide

/-- T2, and T8: the second waiter holds. -/
theorem test_grant :
    nextOf (requesterStep 0 (tvState false waitCur idleCur quiet 7)) =
      some (tvState true { stage := .enc, k := 0 } idleCur quiet 7) ∧
    nextOf (requesterStep 1 (tvState true idleCur waitCur { active := true, pos := 0 } 0)) =
      some (tvState true idleCur waitCur { active := true, pos := 0 } 0) := by decide

/-- T3: slot 0 of the all-zero store, and T4: the last slot ends the stage. -/
theorem test_enc_step :
    nextOf (requesterStep 0 (tvState true { stage := .enc, k := 0 } idleCur quiet 7)) =
      some { tvState true { stage := .enc, k := 1 } idleCur quiet 7 with wbuf := [(0, 32)] } ∧
    nextOf (requesterStep 0
      { tvState true { stage := .enc, k := 135 } idleCur quiet 7 with wbuf := [(0, 32), (135, 65535)] }) =
      some { tvState true { stage := .zero, k := 136 } idleCur quiet 7 with wbuf := [(0, 32)] } := by decide

/-- T5. -/
theorem test_zero_step :
    nextOf (requesterStep 0 (tvState true { stage := .zero, k := 136 } idleCur quiet 7)) =
      some { tvState true { stage := .arm, k := 136 } idleCur quiet 0 with trace := [0] } := by decide

/-- T6. -/
theorem test_arm_step :
    nextOf (requesterStep 0 (tvState true { stage := .arm, k := 136 } idleCur quiet 0)) =
      some (tvState true idleCur idleCur { active := true, pos := 0 } 0) := by decide

/-- T9. -/
theorem test_slot_step :
    nextOf (engineStep
      { tvState true idleCur waitCur { active := true, pos := 0 } 0 with wbuf := [(0, 32)] }) =
      some { tvState true idleCur waitCur { active := true, pos := 1 } 32 with wbuf := [(0, 32)], trace := [32] } := by
  decide

/-- E3: slots 24 to 47 of the store of P2, and the first reset slot. -/
theorem test_enc_vector_e3 :
    (List.range 24).map (fun j => enc Config.tv (24 + j)
      (withEntryOne { green := 0x34, red := 0x12, blue := 0x56 }).pix) =
      [32, 32, 64, 64, 32, 64, 32, 32, 32, 32, 32, 64, 32, 32, 64, 32, 32, 64, 32, 64, 32, 64, 64, 32] ∧
    enc Config.tv 96 (withEntryOne { green := 0x34, red := 0x12, blue := 0x56 }).pix = 0 := by decide

/-- E7, the whole buffer of TV2. -/
theorem test_enc_vector_e7 :
    (List.range 26).map (fun k => enc Config.tv2 k [pixelOfInput 0xA5 0x3C 0x81]) =
      [28, 28, 57, 57, 57, 57, 28, 28, 57, 28, 57, 28, 28, 57, 28, 57, 57, 28, 28, 28, 28, 28, 28, 57, 0, 0] := by
  decide

/-- The index map at slots 63 and 95 (95_test_vectors.md 2.4). -/
theorem test_slot_map :
    (slotLed 63, slotChan 63, slotBit 63) = (2, 1, 0) ∧ (slotLed 95, slotChan 95, slotBit 95) = (3, 2, 0) ∧
    slotIndex 2 1 0 = 63 := by decide

/-- The table of 95_test_vectors.md 2.2. -/
theorem test_pulse_table :
    [4, 10, 90, 100, 105, 125].map Config.defaultShort = [1, 3, 28, 32, 33, 40] ∧
    [4, 10, 90, 100, 105, 125].map Config.defaultLong = [2, 6, 57, 64, 67, 80] := by decide

/-- R7: 40 slots of 1250 ns are 50 microseconds, 39 are not. -/
theorem test_reset_region :
    Config.resetRegionLongEnough Config.tv 1250 50000 = true ∧
    Config.resetRegionLongEnough { Config.tv with resetSlots := 39 } 1250 50000 = false := by decide

/-- R44: the low byte of a slot first; `SLOT_W = 16`. -/
theorem test_byte_view :
    ({ State.reset with wbuf := [(3, 0x1234)] }).wbufByte 0x100 0x106 = some 0x34 ∧
    ({ State.reset with wbuf := [(3, 0x1234)] }).wbufByte 0x100 0x107 = some 0x12 ∧
    (withEntryOne { green := 1, red := 2, blue := 3 }).pixByte 0x40 0x44 = some 2 := by decide

/-! ### Witnesses: for each obligation with hypotheses, what meets them -/

/-- One LED, one reset slot, two ports: 25 slots. -/
def tiny : Config :=
  { ledCount := 1, resetSlots := 1, cmpShort := 1, cmpLong := 2, period := none, slotW := 8, nReq := 2, idW := 8,
    timId := 1 }

/-- A state under `tiny`. -/
def tinyState (busy : Bool) (c0 c1 : Cur) (x : Xfer) (agenda : List Move) : State :=
  { State.resetWith tiny with busy := busy, cur := [c0, c1], xfer := x, agenda := agenda }

def atStage (st : Stage) (k : Nat) : Cur := { stage := st, k := k }
def flying (pos : Nat) : Xfer := { active := true, pos := pos }

/-- Nothing going on, `agenda` to come. -/
def tinyIdle (agenda : List Move) : State := tinyState false idleCur idleCur quiet agenda

/-- Port 0 has reached stage `st` at slot `k`, port 1 waits. -/
def tinyOwner (st : Stage) (k : Nat) (agenda : List Move) : State :=
  tinyState true (atStage st k) waitCur quiet agenda

/-- A transfer in flight at `pos`, port 1 waits, slot 0 holds a pulse. -/
def tinyFlight (pos : Nat) (agenda : List Move) : State :=
  { tinyState true idleCur waitCur (flying pos) agenda with wbuf := [(0, 1)] }

theorem witness_DecodeOfEncode :
    Instr.wf Config.tv (.init 1) = true ∧ Instr.wf Config.tv (.setPixel 1 0xFFFFFFFF 255 0 255) = true ∧
    Instr.wf Config.tv (.clear 1) = true ∧ Instr.wf Config.tv (.showCmd 1) = true ∧
    Instr.wf Config.tv (.reserved 1 0xF) = true ∧ Instr.wf Config.tv (.reserved 0 5) = true ∧
    Instr.wf Config.tv (.complete 255) = true := by decide

/-- The last port, and a word for each branch of R73. -/
theorem witness_EveryWordDecodes :
    1 < Config.tv.nReq ∧ (0x1FFFFFFFFFFFFFFF#64).toNat / 2 ^ 60 = 1 ∧ (0x2000000000000000#64).toNat / 2 ^ 60 = 2 ∧
    (0x3FFFFFFFFFFFFFFF#64).toNat / 2 ^ 60 = 3 ∧ (0x4000000000000000#64).toNat / 2 ^ 60 = 4 ∧
    (0x5000000000000000#64).toNat / 2 ^ 60 = 5 ∧ (0x0FFFFFFFFFFFFFFF#64).toNat / 2 ^ 60 = 0 := by decide

/-- Both sides of each boundary. -/
theorem witness_DecoderAcceptsExactlyTheEncodable :
    decode Config.tv (.command 1 0xF000000000000000) = .ok (.reserved 1 0xF) ∧ Config.tv.nReq ≤ 2 ∧
    ¬ Config.tv.nReq ≤ 1 ∧ 2 ^ Config.tv.idW ≤ 256 ∧ 255 < 2 ^ Config.tv.idW := ⟨rfl, by decide⟩

/-- C9 beside C8, and C10 beside C2. -/
theorem witness_IgnoredFieldsDoNotMatter :
    (fieldOp 0x4FFFFFFFFFFFFFFF = fieldOp 0x4000000000000000 ∧ fieldOp 0x4FFFFFFFFFFFFFFF ≠ 0x2#4) ∧
    (fieldOp 0x2F00000000FF0000 = fieldOp 0x2000000000FF0000 ∧ fieldOp 0x2F00000000FF0000 = 0x2#4 ∧
      fieldIdx 0x2F00000000FF0000 = fieldIdx 0x2000000000FF0000 ∧
      fieldRed 0x2F00000000FF0000 = fieldRed 0x2000000000FF0000 ∧
      fieldGreen 0x2F00000000FF0000 = fieldGreen 0x2000000000FF0000 ∧
      fieldBlue 0x2F00000000FF0000 = fieldBlue 0x2000000000FF0000) := by decide

/-- A command; the completion of a finished transfer; the same event one slot too early; a foreign event. -/
theorem witness_StepRunsDecodedInstruction :
    tiny.wf = true ∧
    decode tiny (.command 1 0x3000000000000000) = .ok (.clear 1) ∧
    (tinyIdle [.input (.command 1 0x3000000000000000)]).agenda = [.input (.command 1 0x3000000000000000)] ∧
    decode tiny (.event 1) = .ok (.complete 1) ∧
    (tinyFlight 25 [.input (.event 1)]).agenda = [.input (.event 1)] ∧
    (tinyFlight 25 [.input (.event 1)]).xfer.pos = tiny.bufLen ∧
    ¬ (tinyFlight 24 [.input (.event 1)]).xfer.pos = tiny.bufLen ∧
    decode tiny (.event 255) = .ok (.complete 255) ∧ (255 : Nat) ≠ tiny.timId :=
  ⟨by decide, rfl, rfl, rfl, rfl, by decide, by decide, rfl, by decide⟩

theorem witness_BadConfigurationIsRefused :
    ({ tinyIdle [] with cfg := { tiny with resetSlots := 0 } }).cfg.wf = false := by decide

/-- The last index in range, and the first and the last out of it. -/
theorem witness_SetPixelStoresInChannelOrder :
    1 < State.reset.cfg.nReq ∧ (State.reset.curAt 1).stage = .idle ∧
    State.reset.pix.length = State.reset.cfg.ledCount ∧ (3#32).toNat < State.reset.cfg.ledCount ∧
    State.reset.cfg.ledCount ≤ (4#32).toNat ∧ State.reset.cfg.ledCount ≤ (0xFFFFFFFF#32).toNat := by decide

/-- Port 0 is idle with a transfer in flight. -/
theorem witness_ClearZeroesTheStore :
    0 < (tinyFlight 7 []).cfg.nReq ∧ ((tinyFlight 7 []).curAt 0).stage = .idle := by decide

theorem witness_ReservedWordDoesNothing :
    1 < (tinyIdle []).cfg.nReq ∧ ((tinyIdle []).curAt 1).stage = .idle ∧
    (0x5000000000000000#64).toNat / 2 ^ 60 ≠ 1 ∧ (0x5000000000000000#64).toNat / 2 ^ 60 ≠ 2 ∧
    (0x5000000000000000#64).toNat / 2 ^ 60 ≠ 3 ∧ (0x5000000000000000#64).toNat / 2 ^ 60 ≠ 4 := by decide

theorem witness_PixelStoreCommandsFrame :
    (∃ t, exec (.setPixel 0 0 1 2 3) (tinyFlight 7 []) = .next t) ∧
    (∃ t, exec (.setPixel 0 1 1 2 3) (tinyFlight 7 []) = .next t) ∧
    (∃ t, exec (.clear 0) (tinyFlight 7 []) = .next t) ∧
    (∃ t, exec (.reserved 0 0xF) (tinyFlight 7 []) = .next t) := ⟨⟨_, rfl⟩, ⟨_, rfl⟩, ⟨_, rfl⟩, ⟨_, rfl⟩⟩

/-- The last port. -/
theorem witness_ShowEntersWait :
    1 < (tinyIdle []).cfg.nReq ∧ ((tinyIdle []).curAt 1).stage = .idle ∧
    (tinyIdle []).cur.length = (tinyIdle []).cfg.nReq := by decide

/-- Port 0, with a transfer in flight. -/
theorem witness_InitZeroesAndEntersWait :
    0 < (tinyFlight 7 []).cfg.nReq ∧ ((tinyFlight 7 []).curAt 0).stage = .idle ∧
    (tinyFlight 7 []).cur.length = (tinyFlight 7 []).cfg.nReq := by decide

theorem witness_CompleteForcesLowAndClearsBusy :
    1 = (tinyFlight 25 []).cfg.timId ∧ 0 ≠ (tinyFlight 25 []).cfg.timId := by decide

theorem witness_ControllerCommandsFrame :
    (∃ t, exec (.showCmd 0) (tinyFlight 7 []) = .next t) ∧ (∃ t, exec (.init 0) (tinyFlight 7 []) = .next t) ∧
    (∃ t, exec (.complete 1) (tinyFlight 7 []) = .next t) ∧
    (∃ t, exec (.complete 0) (tinyFlight 7 []) = .next t) := ⟨⟨_, rfl⟩, ⟨_, rfl⟩, ⟨_, rfl⟩, ⟨_, rfl⟩⟩

/-- Both sides of the equivalence, with a transfer in flight. -/
theorem witness_InitIsClearThenShow :
    (∃ t, exec (.init 0) (tinyFlight 7 []) = .next t) ∧
    ∃ u, exec (.clear 0) (tinyFlight 7 []) = .next u ∧ ∃ t, exec (.showCmd 0) u = .next t :=
  ⟨⟨_, rfl⟩, _, rfl, _, rfl⟩

/-- A port that waits, and the first port that does not exist. -/
theorem witness_CommandNeedsAnIdlePort :
    1 < (tinyFlight 7 []).cfg.nReq ∧ ((tinyFlight 7 []).curAt 1).stage ≠ .idle ∧
    (tinyFlight 7 []).cfg.nReq ≤ 2 := by decide

theorem witness_CompletionCommutesWithCommands :
    (∀ id', Instr.showCmd 0 ≠ .complete id') ∧ (∃ a, exec (.complete 1) (tinyFlight 25 []) = .next a) ∧
    ∃ b, exec (.showCmd 0) (tinyFlight 25 []) = .next b := ⟨by simp, ⟨_, rfl⟩, ⟨_, rfl⟩⟩

/-- Two waiters, while Idle and while Transmitting. -/
theorem witness_GrantIsExclusive :
    ((tinyState false waitCur waitCur quiet []).curAt 0).stage = .wait ∧
    (tinyState false waitCur waitCur quiet []).busy = false ∧
    ((tinyState false waitCur waitCur quiet []).curAt 1).stage = .wait ∧
    ((tinyFlight 7 []).curAt 1).stage = .wait ∧ (tinyFlight 7 []).busy = true := by decide

theorem witness_AnyWaiterMayBeGranted :
    (tinyState false waitCur waitCur quiet []).cfg.wf = true ∧
    (tinyState false waitCur waitCur quiet []).busy = false ∧
    ((tinyState false waitCur waitCur quiet []).curAt 1).stage = .wait := by decide

/-- The last slot, and the one before it. -/
theorem witness_EncStepWritesOneSlot :
    Memory.wf (tinyOwner .enc 24 []).wbuf = true ∧ ((tinyOwner .enc 24 []).curAt 0).stage = .enc ∧
    ((tinyOwner .enc 24 []).curAt 0).k < (tinyOwner .enc 24 []).cfg.bufLen ∧
    ((tinyOwner .enc 24 []).curAt 0).k + 1 = (tinyOwner .enc 24 []).cfg.bufLen ∧
    ((tinyOwner .enc 23 []).curAt 0).stage = .enc ∧
    ((tinyOwner .enc 23 []).curAt 0).k + 1 ≠ (tinyOwner .enc 23 []).cfg.bufLen := by decide

theorem witness_ZeroStepForcesLow : ((tinyOwner .zero 25 []).curAt 0).stage = .zero := by decide

theorem witness_ArmStepStartsTheTransfer :
    ((tinyOwner .arm 25 []).curAt 0).stage = .arm ∧ (tinyOwner .arm 25 []).xfer.active = false := by decide

/-- No run under the environment's contract reaches this state. -/
theorem witness_StartWhileActiveFaults :
    ((tinyState true (atStage .arm 25) idleCur (flying 0) []).curAt 0).stage = .arm ∧
    (tinyState true (atStage .arm 25) idleCur (flying 0) []).xfer.active = true := by decide

/-- The first and the last slot. -/
theorem witness_SlotStepOutputsTheNextSlot :
    (tinyFlight 0 []).xfer.active = true ∧ (tinyFlight 0 []).xfer.pos < (tinyFlight 0 []).cfg.bufLen ∧
    (tinyFlight 24 []).xfer.pos < (tinyFlight 24 []).cfg.bufLen := by decide

theorem witness_CompletionStepEndsTheTransfer :
    (tinyFlight 25 []).xfer.active = true ∧ (tinyFlight 25 []).xfer.pos = (tinyFlight 25 []).cfg.bufLen ∧
    (tinyFlight 25 []).cfg.timId < 2 ^ (tinyFlight 25 []).cfg.idW ∧ (tinyIdle []).xfer.active = false := by decide

/-- A SLOT step, and a completion, which changes `BUSY`. -/
theorem witness_EngineLeavesTheCoreAlone :
    (∃ t, engineStep (tinyFlight 24 []) = .next t) ∧
    ∃ t, engineStep (tinyFlight 25 []) = .next t ∧ t.busy ≠ (tinyFlight 25 []).busy :=
  ⟨⟨_, rfl⟩, _, rfl, by decide⟩

/-- One slot too early, and with no transfer at all. -/
theorem witness_SpuriousCompletionActsAsWritten :
    (tinyFlight 24 [.input (.event 1)]).cfg.wf = true ∧
    (tinyFlight 24 [.input (.event 1)]).agenda = [.input (.event (tinyFlight 24 []).cfg.timId)] ∧
    ¬ ((tinyFlight 24 [.input (.event 1)]).xfer.active = true ∧
      (tinyFlight 24 [.input (.event 1)]).xfer.pos = (tinyFlight 24 [.input (.event 1)]).cfg.bufLen) ∧
    ¬ ((tinyIdle [.input (.event 1)]).xfer.active = true ∧
      (tinyIdle [.input (.event 1)]).xfer.pos = (tinyIdle [.input (.event 1)]).cfg.bufLen) := by decide

/-- The last data slot, the last LED, channel and bit, and the first reset slot. -/
theorem witness_EncFollowsTheSlotOrder :
    95 < Config.tv.dataSlots ∧ 3 < Config.tv.ledCount ∧ Config.tv.dataSlots ≤ 96 := by decide

theorem witness_EncReadsTheE24View : 95 < Config.tv.dataSlots := by decide

theorem witness_AllOffAndAllOnWaveforms : 95 < Config.tv.dataSlots ∧ Config.tv.dataSlots ≤ 96 := by decide

theorem witness_SlotValuesDecodeBack : Config.tv.wf = true ∧ 95 < Config.tv.dataSlots := by decide

/-- The last index in range and the last bit. -/
theorem witness_SetPixelPlacesItsBits :
    State.reset.pix.length = State.reset.cfg.ledCount ∧ (3#32).toNat < State.reset.cfg.ledCount ∧
    ∃ t, exec (.setPixel 1 3 1 2 255) State.reset = .next t := ⟨by decide, by decide, _, rfl⟩

/-- Any small state whose ranges hold has the shape. -/
theorem wf_of_ranges {busy : Bool} {c0 c1 : Cur} {x : Xfer} {agenda : List Move} (h0 : c0.k ≤ 25) (h1 : c1.k ≤ 25)
    (e0 : c0.stage = .enc → c0.k < 25) (e1 : c1.stage = .enc → c1.k < 25) (hx : x.pos ≤ 25) :
    (tinyState busy c0 c1 x agenda).Wf where
  cfgOk := (by decide : tiny.wf = true)
  pixLength := rfl
  curLength := rfl
  wbufWf := (by decide : Memory.wf [] = true)
  wbufRange := by simp [tinyState, State.resetWith]
  cmpRange := (by decide : 0 < 2 ^ 8)
  traceRange := by simp [tinyState, State.resetWith]
  posRange := hx
  kRange := by
    intro c hc
    obtain rfl | rfl := by simpa [tinyState] using hc
    · exact h0
    · exact h1
  encRange := by
    intro c hc
    obtain rfl | rfl := by simpa [tinyState] using hc
    · exact e0
    · exact e1

theorem tinyIdle_wf (agenda : List Move) : (tinyIdle agenda).Wf :=
  wf_of_ranges (by decide) (by decide) (by decide) (by decide) (by decide)

theorem tinyOwner_wf {st : Stage} {k : Nat} (agenda : List Move) (hk : k ≤ 25) (he : st = .enc → k < 25) :
    (tinyOwner st k agenda).Wf :=
  wf_of_ranges hk (by decide) he (by decide) (by decide)

theorem tinyFlight_wf {pos : Nat} (agenda : List Move) (hp : pos ≤ 25) : (tinyFlight pos agenda).Wf :=
  let w : (tinyState true idleCur waitCur (flying pos) agenda).Wf :=
    wf_of_ranges (by decide) (by decide) (by decide) (by decide) hp
  { w with
    wbufWf := (by decide : Memory.wf [(0, 1)] = true)
    wbufRange := (by decide : ∀ a ∈ [((0 : Nat), (1 : Nat))], a.1 < tiny.bufLen ∧ a.2 < 2 ^ 8) }

theorem witness_UndisturbedEncodeFillsTheBuffer :
    (tinyOwner .enc 0 (List.replicate 25 (.requester 0) ++ [])).Wf ∧
    (tinyOwner .enc 0 (List.replicate 25 (.requester 0) ++ [])).curAt 0 = { stage := .enc, k := 0 } ∧
    (tinyOwner .enc 0 []).cfg.bufLen = 25 :=
  ⟨tinyOwner_wf _ (by decide) (by decide), rfl, by decide⟩

theorem witness_UndisturbedShowTracesTheWaveform :
    (tinyState false waitCur waitCur quiet
      (List.replicate (25 + 3) (.requester 0) ++ (List.replicate (25 + 1) .engine ++ []))).Wf ∧
    ((tinyState false waitCur waitCur quiet []).curAt 0).stage = .wait ∧
    (tinyState false waitCur waitCur quiet []).busy = false ∧
    (tinyState false waitCur waitCur quiet []).xfer.active = false ∧
    (tinyState false waitCur waitCur quiet []).cfg.bufLen = 25 :=
  ⟨wf_of_ranges (by decide) (by decide) (by decide) (by decide) (by decide), by decide⟩

/-- The records of a small state, port by port. -/
theorem tiny_curAt {s : State} {c0 c1 : Cur} (h : s.cur = [c0, c1]) (p : Nat) :
    (p = 0 ∧ s.curAt p = c0) ∨ (p = 1 ∧ s.curAt p = c1) ∨ s.curAt p = idleCur := by
  rcases p with _ | _ | p
  · simp [State.curAt, h]
  · simp [State.curAt, h]
  · exact .inr (.inr (by simp [State.curAt, h, Cur.ready, idleCur]))

/-- The slots of a small state hold legal values: nothing listed but, at most, a short pulse in slot 0. -/
theorem tiny_encoded {s : State} (hc : s.cfg = tiny) (hw : s.wbuf = [] ∨ s.wbuf = [(0, 1)]) (k : Nat) :
    s.slotEncoded k := by
  rcases hw with hw | hw
  · simp [State.slotEncoded, State.slotAt, hw, memRead, unlistedSlot]
  · simp only [State.slotEncoded, State.slotAt, hw, memRead, unlistedSlot, hc]
    rcases k with _ | k
    · decide
    · simp

theorem tinyIdle_protocol (agenda : List Move) : (tinyIdle agenda).Protocol where
  idleQuiet := fun _ => ⟨fun p => by
    rcases tiny_curAt (s := tinyIdle agenda) rfl p with ⟨-, h⟩ | ⟨-, h⟩ | h <;>
      simp [State.owns, h, idleCur, Stage.owning], rfl⟩
  oneOwner := fun p q hp _ => by
    rcases tiny_curAt (s := tinyIdle agenda) rfl p with ⟨-, h⟩ | ⟨-, h⟩ | h <;>
      simp [State.owns, h, idleCur, Stage.owning] at hp
  ownerBusy := fun p hp => by
    rcases tiny_curAt (s := tinyIdle agenda) rfl p with ⟨-, h⟩ | ⟨-, h⟩ | h <;>
      simp [State.owns, h, idleCur, Stage.owning] at hp
  activeBusy := fun h => absurd h (by simp [tinyIdle, tinyState, quiet])
  encodedPart := fun _ _ k _ => tiny_encoded rfl (.inl rfl) k
  encodedWhole := fun _ _ k _ => tiny_encoded rfl (.inl rfl) k
  activeEncoded := fun _ k _ => tiny_encoded rfl (.inl rfl) k

theorem tinyOwner_owns {st : Stage} {k : Nat} {agenda : List Move} {p : Nat}
    (h : (tinyOwner st k agenda).owns p = true) : p = 0 := by
  rcases tiny_curAt (s := tinyOwner st k agenda) rfl p with ⟨h0, -⟩ | ⟨-, h1⟩ | h1
  · exact h0
  · simp [State.owns, h1, waitCur, Stage.owning] at h
  · simp [State.owns, h1, idleCur, Stage.owning] at h

theorem tinyOwner_protocol (st : Stage) (k : Nat) (agenda : List Move) : (tinyOwner st k agenda).Protocol where
  idleQuiet := fun h => absurd h (by simp [tinyOwner, tinyState])
  oneOwner := fun _ _ hp hq => (tinyOwner_owns hp).trans (tinyOwner_owns hq).symm
  ownerBusy := fun _ _ => ⟨rfl, rfl⟩
  activeBusy := fun h => absurd h (by simp [tinyOwner, tinyState, quiet])
  encodedPart := fun _ _ k _ => tiny_encoded rfl (.inl rfl) k
  encodedWhole := fun _ _ k _ => tiny_encoded rfl (.inl rfl) k
  activeEncoded := fun _ k _ => tiny_encoded rfl (.inl rfl) k

theorem tinyFlight_owns (pos : Nat) (agenda : List Move) (p : Nat) : (tinyFlight pos agenda).owns p = false := by
  rcases tiny_curAt (s := tinyFlight pos agenda) rfl p with ⟨-, h⟩ | ⟨-, h⟩ | h <;>
    simp [State.owns, h, idleCur, waitCur, Stage.owning]

theorem tinyFlight_protocol (pos : Nat) (agenda : List Move) : (tinyFlight pos agenda).Protocol where
  idleQuiet := fun h => absurd h (by simp [tinyFlight, tinyState])
  oneOwner := fun p _ hp _ => absurd hp (by simp [tinyFlight_owns pos agenda p])
  ownerBusy := fun p hp => absurd hp (by simp [tinyFlight_owns pos agenda p])
  activeBusy := fun _ => ⟨rfl, tinyFlight_owns pos agenda⟩
  encodedPart := fun _ _ k _ => tiny_encoded rfl (.inr rfl) k
  encodedWhole := fun _ _ k _ => tiny_encoded rfl (.inr rfl) k
  activeEncoded := fun _ k _ => tiny_encoded rfl (.inr rfl) k

/-- The last ENC step; an empty agenda; and, under the protocol, a command on the idle port, a foreign event, the
completion of a finished transfer and RESET. -/
theorem witness_StepTakesTheNextMove :
    (tinyOwner .enc 24 [.requester 0]).cfg.wf = true ∧
    (tinyOwner .enc 24 [.requester 0]).agenda = [.requester 0] ∧
    (tinyFlight 24 [.engine]).agenda = [.engine] ∧ (tinyIdle []).cfg.wf = true ∧ (tinyIdle []).agenda = [] ∧
    (∀ pos agenda, (tinyFlight pos agenda).Protocol) ∧
    (tinyFlight 24 []).MayComeNext (.input (.command 0 0x4000000000000000)) ∧
    (tinyFlight 24 []).MayComeNext (.input (.event 255)) ∧ (tinyFlight 25 []).MayComeNext (.input (.event 1)) ∧
    (tinyFlight 24 []).MayComeNext .reset ∧ (tinyFlight 24 []).MayComeNext (.requester 1) :=
  ⟨by decide, rfl, rfl, by decide, rfl, tinyFlight_protocol, ⟨by decide, rfl⟩, ⟨by decide, by decide⟩,
    ⟨by decide, fun _ => by decide⟩, trivial, (by decide : 1 < 2)⟩

/-- The last ENC step, and a SHOW issued during a transfer. -/
theorem witness_StepKeepsTheShape :
    (tinyOwner .enc 24 [.requester 0]).Wf ∧ (∃ t, step (tinyOwner .enc 24 [.requester 0]) = .next t) ∧
    (tinyFlight 7 [.input (.command 0 0x4000000000000000)]).Wf ∧
    ∃ t, step (tinyFlight 7 [.input (.command 0 0x4000000000000000)]) = .next t :=
  ⟨tinyOwner_wf _ (by decide) (by decide), ⟨_, rfl⟩, tinyFlight_wf _ (by decide), _, rfl⟩

/-- The ARM step, which starts a transfer; and the event that ends one, which the environment may deliver. -/
theorem witness_StepKeepsTheProtocol :
    ((tinyOwner .arm 25 [.requester 0]).Wf ∧ (tinyOwner .arm 25 [.requester 0]).Protocol ∧
      (tinyOwner .arm 25 [.requester 0]).EnvironmentKeeps ∧
      ∃ t, step (tinyOwner .arm 25 [.requester 0]) = .next t) ∧
    ((tinyFlight 25 [.input (.event 1)]).Wf ∧ (tinyFlight 25 [.input (.event 1)]).Protocol ∧
      (tinyFlight 25 [.input (.event 1)]).EnvironmentKeeps ∧
      ∃ t, step (tinyFlight 25 [.input (.event 1)]) = .next t) :=
  ⟨⟨tinyOwner_wf _ (by decide) (by decide), tinyOwner_protocol _ _ _,
      fun h => absurd h (by simp [tinyOwner, tinyState, nextMove]), _, rfl⟩,
    tinyFlight_wf _ (by decide), tinyFlight_protocol _ _, fun _ => by decide, _, rfl⟩

/-- The step that starts a transfer, and the last SLOT step. -/
theorem witness_ProtocolExcludesTheFault :
    (tinyOwner .arm 25 [.requester 0]).Protocol ∧ (tinyFlight 24 [.engine]).Protocol :=
  ⟨tinyOwner_protocol _ _ _, tinyFlight_protocol _ _⟩

theorem witness_StepKeepsBusyAccounted :
    (tinyOwner .arm 25 [.requester 0]).Wf ∧ (tinyOwner .arm 25 [.requester 0]).Protocol ∧
    (tinyOwner .arm 25 [.requester 0]).BusyAccounted ∧ (tinyOwner .arm 25 [.requester 0]).EnvironmentKeeps ∧
    ∃ t, step (tinyOwner .arm 25 [.requester 0]) = .next t :=
  ⟨tinyOwner_wf _ (by decide) (by decide), tinyOwner_protocol _ _ _, fun _ => .inl ⟨0, rfl⟩,
    fun h => absurd h (by simp [tinyOwner, tinyState, nextMove]), _, rfl⟩

/-- A SLOT step after another: the last value traced is the compare value. -/
theorem witness_StepKeepsCompareTraced :
    State.CompareTraced { tinyFlight 1 [.engine] with cmp := 1, trace := [0, 1] } ∧
    ∃ t, step { tinyFlight 1 [.engine] with cmp := 1, trace := [0, 1] } = .next t :=
  ⟨fun v h => by simpa using h.symm, _, rfl⟩

/-- The completion, from a state of the protocol. -/
theorem witness_StepKeepsIdleLow :
    (tinyFlight 25 [.engine]).Protocol ∧ (tinyFlight 25 [.engine]).IdleLow ∧
    ∃ t, step (tinyFlight 25 [.engine]) = .next t :=
  ⟨tinyFlight_protocol _ _, fun h => absurd h (by simp [tinyFlight, tinyState]), _, rfl⟩

theorem witness_ResetMeetsTheInvariants : tiny.wf = true ∧ Config.tv.wf = true := by decide

theorem witness_ResetEventGivesTheResetValues :
    (tinyFlight 7 [.reset]).cfg.wf = true ∧ (tinyFlight 7 [.reset]).agenda = [.reset] := by decide

theorem witness_ParametersNeverChange : ∃ t, step (tinyFlight 7 [.reset]) = .next t := ⟨_, rfl⟩

theorem witness_OnlyAGrantSetsBusy :
    ∃ t, step (tinyState false waitCur waitCur quiet [.requester 1]) = .next t ∧
      (tinyState false waitCur waitCur quiet [.requester 1]).busy = false ∧ t.busy = true :=
  ⟨_, rfl, by decide, by decide⟩

/-- The completion, by the engine's move and by the event; and RESET. -/
theorem witness_OnlyACompletionClearsBusy :
    (∃ t, step (tinyFlight 25 [.engine]) = .next t ∧ t.busy = false) ∧
    (∃ t, step (tinyFlight 25 [.input (.event 1)]) = .next t ∧ t.busy = false) ∧
    (∃ t, step (tinyFlight 7 [.reset]) = .next t ∧ t.busy = false) ∧ (tinyFlight 25 []).busy = true :=
  ⟨⟨_, rfl, rfl⟩, ⟨_, rfl, rfl⟩, ⟨_, rfl, rfl⟩, rfl⟩

/-- The first ENC step. -/
theorem witness_OnlyAnEncStepWritesASlot :
    ∃ t, step (tinyOwner .enc 0 [.requester 0]) = .next t ∧
      t.slotAt 0 ≠ (tinyOwner .enc 0 [.requester 0]).slotAt 0 := ⟨_, rfl, by decide⟩

/-- SET_PIXEL of index 0 on port 0. -/
theorem witness_OnlyCommandsWriteThePixelStore :
    ∃ t, step (tinyFlight 7 [.input (.command 0 0x20000000000A0B0C)]) = .next t ∧
      t.pix ≠ (tinyFlight 7 []).pix := ⟨_, rfl, by decide⟩

theorem witness_RequesterRecordsArePrivate :
    (∃ t, step (tinyOwner .arm 25 [.requester 0]) = .next t ∧
      t.curAt 0 ≠ (tinyOwner .arm 25 [.requester 0]).curAt 0) ∧
    ∃ t, step (tinyFlight 7 [.input (.command 0 0x1000000000000000)]) = .next t ∧
      t.curAt 0 ≠ (tinyFlight 7 []).curAt 0 := ⟨⟨_, rfl, by decide⟩, _, rfl, by decide⟩

theorem witness_TransferRunsToCompletion :
    (∃ t, step (tinyFlight 25 [.engine]) = .next t ∧ t.xfer.active = false) ∧
    (∃ t, step (tinyFlight 24 [.reset]) = .next t ∧ t.xfer.active = false) ∧
    (tinyFlight 25 []).xfer.active = true := ⟨⟨_, rfl, rfl⟩, ⟨_, rfl, rfl⟩, rfl⟩

/-- The first SLOT step: 0 becomes a short pulse. -/
theorem witness_CompareValuesAreLegal :
    (tinyFlight 0 [.engine]).Protocol ∧
    ∃ t, step (tinyFlight 0 [.engine]) = .next t ∧ t.cmp ≠ (tinyFlight 0 [.engine]).cmp :=
  ⟨tinyFlight_protocol _ _, _, rfl, by decide⟩

theorem witness_OthersHoldWhileTransmitting :
    (tinyOwner .enc 3 []).Protocol ∧ (tinyOwner .enc 3 []).owns 0 = true ∧ (tinyFlight 7 []).Protocol ∧
    (tinyFlight 7 []).xfer.active = true :=
  ⟨tinyOwner_protocol _ _ _, rfl, tinyFlight_protocol _ _, rfl⟩

/-! ### Witnesses over runs -/

/-- For ever by turns a SET_PIXEL of what the store holds, on port 0, and a foreign completion event. -/
def hostMoves (n : Nat) : Move :=
  if n % 2 = 0 then .input (.command 0 0x2000000000000000) else .input (.event 0)

/-- A transfer in flight that the engine has stopped serving (R134), while port 1 waits. -/
def stuckRun (_ : Nat) : State := tinyFlight 7 []

theorem hostMoves_cases (n : Nat) :
    hostMoves n = .input (.command 0 0x2000000000000000) ∨ hostMoves n = .input (.event 0) := by
  unfold hostMoves
  split_ifs <;> simp

theorem stuckRun_isRun : IsRun hostMoves stuckRun := by
  intro n
  refine ⟨[], 0, ?_⟩
  rcases hostMoves_cases n with h | h <;> rw [h] <;> rfl

theorem witness_StuckTransferNeverEnds :
    IsRun hostMoves stuckRun ∧ (stuckRun 0).busy = true ∧
    (∀ n, hostMoves n ≠ .reset ∧ hostMoves n ≠ .input (.event (stuckRun n).cfg.timId) ∧
      ¬ (hostMoves n = .engine ∧ (stuckRun n).transferFinished = true)) ∧
    (stuckRun 0).waits 1 = true := by
  refine ⟨stuckRun_isRun, rfl, fun n => ?_, rfl⟩
  rcases hostMoves_cases n with h | h <;> rw [h] <;>
    exact ⟨fun h => (by cases h), fun h => (by cases h), fun h => (by cases h.1)⟩

/-- A finished transfer whose completion comes at once, and Idle ever after, foreign events coming for ever. -/
def endingRun : Nat → State
  | 0 => tinyState true idleCur idleCur (flying 25) []
  | _ + 1 => { tinyState false idleCur idleCur { active := false, pos := 25 } [] with trace := [0] }

def endingMoves : Nat → Move
  | 0 => .engine
  | _ + 1 => .input (.event 0)

theorem endingRun_owns (n p : Nat) : (endingRun n).owns p = false := by
  have hc : (endingRun n).cur = [idleCur, idleCur] := by cases n <;> rfl
  rcases tiny_curAt hc p with ⟨-, h⟩ | ⟨-, h⟩ | h <;> simp [State.owns, h, idleCur, Stage.owning]

theorem endingRun_waits (n p : Nat) : (endingRun n).waits p = false := by
  have hc : (endingRun n).cur = [idleCur, idleCur] := by cases n <;> rfl
  rcases tiny_curAt hc p with ⟨-, h⟩ | ⟨-, h⟩ | h <;> simp [State.waits, h, idleCur]

theorem endingRun_isRun : IsRun endingMoves endingRun
  | 0 => ⟨[], 0, rfl⟩
  | _ + 1 => ⟨[], 0, rfl⟩

theorem endingRun_fair : WeaklyFair endingMoves endingRun where
  owner := fun n p h => absurd h (by simp [endingRun_owns n p])
  grant := fun n h => by
    obtain ⟨p, hp⟩ := h.2
    exact absurd hp (by simp [endingRun_waits n p])
  engine := fun n h => by
    cases n with
    | zero => exact ⟨0, le_rfl, .inl rfl⟩
    | succ n => cases h

theorem endingRun_contract : ∀ n, (endingRun n).KeepsContract (endingMoves n)
  | 0 => fun h => by cases h
  | _ + 1 => fun h => by cases h

theorem endingRun_protocol : (endingRun 0).Protocol where
  idleQuiet := fun h => by cases h
  oneOwner := fun p _ hp _ => absurd hp (by simp [endingRun_owns 0 p])
  ownerBusy := fun p hp => absurd hp (by simp [endingRun_owns 0 p])
  activeBusy := fun _ => ⟨rfl, endingRun_owns 0⟩
  encodedPart := fun _ _ k _ => tiny_encoded rfl (.inl rfl) k
  encodedWhole := fun _ _ k _ => tiny_encoded rfl (.inl rfl) k
  activeEncoded := fun _ k _ => tiny_encoded rfl (.inl rfl) k

theorem witness_FairTransmissionEnds :
    IsRun endingMoves endingRun ∧ WeaklyFair endingMoves endingRun ∧ (endingRun 0).Wf ∧ (endingRun 0).Protocol ∧
    (endingRun 0).BusyAccounted ∧ (∀ n, (endingRun n).KeepsContract (endingMoves n)) ∧
    (endingRun 0).busy = true :=
  ⟨endingRun_isRun, endingRun_fair,
    wf_of_ranges (by decide) (by decide) (by decide) (by decide) (by decide), endingRun_protocol,
    fun _ => .inr rfl, endingRun_contract, rfl⟩

/-- The least period. -/
theorem witness_DefaultPulseConstants : 4 ≤ 4 ∧ (Config.tv.withPeriod 4).cmpShort = 1 := by decide

/-- The last slot and its high byte, and the last byte of the store. -/
theorem witness_ByteViewLayout :
    0 < State.reset.cfg.slotW ∧ State.reset.cfg.slotW % 8 = 0 ∧ 0x100 % (State.reset.cfg.slotW / 8) = 0 ∧
    135 < State.reset.cfg.bufLen ∧ 1 < State.reset.cfg.slotW / 8 ∧ 3 < State.reset.cfg.ledCount := by decide

/-- A SHOW, its GRANT and its first ENC step, with RESET after them. -/
theorem witness_StepsAndMovesAgree :
    (∃ t, step (tinyOwner .enc 24 [.requester 0]) = .next t) ∧ (tinyIdle [.reset]).cfg.wf = true ∧
    ∃ t, runMoves [.input (.command 0 0x4000000000000000), .requester 0, .requester 0, .reset] (tinyIdle []) =
      .next t := ⟨⟨_, rfl⟩, by decide, _, rfl⟩

/-- Two ports, the fewest. -/
theorem witness_StarvationIsPossible : tiny.wf = true ∧ 2 ≤ tiny.nReq := by decide

end Sys2Proof.Tests
end

section
/-! SUPPORT. Proofs of the statements of spec 00_scope.md: the decoder, the next move, and what a step is. -/

namespace Sys2Proof.Proofs

open Sys2Proof Sys2Proof.Machine

/-! ### Decoding -/

/-- A word on an existing port decodes to a well-formed command; the last branch of the decoder is reached by
the opcodes of R64 only. -/
theorem decodeCommand_wf {c : Config} {p : Nat} (hp : p < c.nReq) (w : CommandWord) :
    (decodeCommand p w).wf c = true := by
  unfold decodeCommand
  split_ifs with h1 h2 h3 h4
  · simpa [Instr.wf] using hp
  · simpa [Instr.wf] using hp
  · simpa [Instr.wf] using hp
  · simpa [Instr.wf] using hp
  · simp [Instr.wf, opAssigned, hp, h1, h2, h3, h4]

theorem decode_wf {c : Config} {x : Input} {i : Instr} (h : decode c x = .ok i) : i.wf c = true := by
  cases x with
  | command p w =>
    obtain ⟨hp, rfl⟩ := decode_command h
    exact decodeCommand_wf hp w
  | event id =>
    obtain ⟨hid, rfl⟩ := decode_event h
    simpa [Instr.wf] using hid

theorem decode_command_of_port {c : Config} {p : Nat} (hp : p < c.nReq) (w : CommandWord) :
    decode c (.command p w) = .ok (decodeCommand p w) := if_pos hp

theorem decode_event_of_width {c : Config} {id : Nat} (hid : id < 2 ^ c.idW) :
    decode c (.event id) = .ok (.complete id) := if_pos hid

theorem decode_command_rejected_iff (c : Config) (p : Nat) (w : CommandWord) :
    decode c (.command p w) = .error .noSuchPort ↔ c.nReq ≤ p := by
  by_cases hp : p < c.nReq
  · simp [decode_command_of_port hp, hp]
  · simp [decode, hp, Nat.le_of_not_lt hp]

theorem decode_event_rejected_iff (c : Config) (id : Nat) :
    decode c (.event id) = .error .notAnEventWord ↔ 2 ^ c.idW ≤ id := by
  by_cases hid : id < 2 ^ c.idW
  · simp [decode_event_of_width hid, hid]
  · simp [decode, hid, Nat.le_of_not_lt hid]

/-- Settles O3, one clause per branch of the decoder. -/
theorem decoderAcceptsExactlyTheEncodable : Obligations.DecoderAcceptsExactlyTheEncodable :=
  ⟨fun _ _ _ => decode_wf, decode_command_rejected_iff, decode_event_rejected_iff,
    fun _ _ => decode_event_of_width⟩

/-! ### The step as its next move's -/

theorem step_of_wf {s : State} (h : s.cfg.wf = true) : step s = runMove (nextMove s) (takeUp s) := if_pos h

theorem step_of_not_wf {s : State} (h : s.cfg.wf = false) : step s = .refused .badConfiguration := by
  simp [step, h]

/-- With a move settled, the step is that move's, on the state that has lost it. -/
theorem step_of_agenda_cons {s : State} {m : Move} {rest : List Move} (hc : s.cfg.wf = true)
    (ha : s.agenda = m :: rest) : step s = runMove m (s.withAgenda rest) := by
  simp [step_of_wf hc, nextMove, takeUp, ha]

/-- With nothing settled, the step is the free choice's, and one draw is consumed. -/
theorem step_of_agenda_nil {s : State} (hc : s.cfg.wf = true) (ha : s.agenda = []) :
    step s = runMove (nextMove s) (s.withDraws (s.draws + 1)) := by
  simp [step_of_wf hc, takeUp, ha]

/-- Settles O8. -/
theorem badConfigurationIsRefused : Obligations.BadConfigurationIsRefused :=
  fun _ => step_of_not_wf

/-! ### The decoded instruction and what the engine does beside it -/

theorem arrive_of_decode {x : Input} {i : Instr} {u : State} (h : decode u.cfg x = .ok i) :
    arrive x u = exec i (besideInstr i u) := by
  simp [arrive, h]

theorem besideInstr_of_command {i : Instr} (h : ∀ id, i ≠ .complete id) (u : State) :
    besideInstr i u = u := by
  cases i with
  | complete id => exact absurd rfl (h id)
  | _ => rfl

/-- Settles O6: the agenda's head is the next move, and the engine's part is `endFinishedTransfer` (R129). -/
theorem stepRunsDecodedInstruction : Obligations.StepRunsDecodedInstruction := by
  intro s x rest i hc ha hi
  refine ⟨?_, fun h => besideInstr_of_command h _, ?_, ?_, ?_⟩
  · rw [step_of_agenda_cons hc ha]
    exact arrive_of_decode hi
  · rintro ⟨rfl, hfin⟩
    exact endFinishedTransfer_finished (s := s.withAgenda rest) ((transferFinished_iff s).2 hfin)
  · rintro ⟨rfl, hunfin⟩
    have hf : s.transferFinished = false := by rwa [← Bool.not_eq_true, transferFinished_iff]
    exact endFinishedTransfer_unfinished _ (s := s.withAgenda rest) hf
  · rintro id hid rfl
    exact endFinishedTransfer_foreign (s.withAgenda rest) hid

/-! ### Every finite sequence of moves is carried out by steps -/

theorem storePixel_cfg (u : State) (idx : BitVec 32) (px : Pixel) : (u.storePixel idx px).cfg = u.cfg := by
  rw [storePixel_frame, State.withPix_cfg]

/-- No move changes a parameter (R26). -/
theorem caused_cfg {m : Move} {u t : State} (h : Caused m u t) : t.cfg = u.cfg := by
  cases h with
  | setPixel => exact storePixel_cfg ..
  | _ => rfl

/-- No move changes the agenda: `runMove_withAgenda` at the agenda it already has. -/
theorem runMove_agenda {m : Move} {u t : State} (h : runMove m u = .next t) : t.agenda = u.agenda := by
  have hsame : runMove m u = .next (t.withAgenda u.agenda) := runMove_withAgenda u.agenda h
  rw [Host.Outcome.next.inj (h.symm.trans hsame), State.withAgenda_agenda]

theorem runMoves_cons_next {m : Move} {ms : List Move} {s t : State} (h : runMoves (m :: ms) s = .next t) :
    ∃ u, runMove m s = .next u ∧ runMoves ms u = .next t := by
  unfold runMoves at h
  split at h
  · next u hu => exact ⟨u, hu, h⟩
  · cases h
  · cases h

theorem runSteps_succ {n : Nat} {s u : State} (h : step s = .next u) : runSteps (n + 1) s = runSteps n u := by
  simp [runSteps, h]

theorem runSteps_of_runMoves (ms : List Move) {s t : State} (hc : s.cfg.wf = true)
    (h : runMoves ms s = .next t) : runSteps ms.length (s.withAgenda (ms ++ s.agenda)) = .next t := by
  induction ms generalizing s with
  | nil => exact h
  | cons m ms ih =>
    obtain ⟨u, hu, hrest⟩ := runMoves_cons_next h
    have hcfg : u.cfg = s.cfg := caused_cfg (runMove_next hu)
    have hstep : step (s.withAgenda (m :: ms ++ s.agenda)) = .next (u.withAgenda (ms ++ u.agenda)) := by
      rw [step_of_agenda_cons (s := s.withAgenda (m :: ms ++ s.agenda)) hc rfl, runMove_agenda hu]
      exact runMove_withAgenda (u := s) (ms ++ s.agenda) hu
    rw [List.length_cons, runSteps_succ hstep]
    exact ih (hcfg ▸ hc) hrest

/-- Settles O59: `step_eq_cons`, and an induction on the moves. -/
theorem stepsAndMovesAgree : Obligations.StepsAndMovesAgree :=
  ⟨fun s _ h => ⟨(takeUp s).agenda, (takeUp s).draws, (step_eq_cons s).symm.trans h⟩,
    fun ms _ _ => runSteps_of_runMoves ms⟩

/-! ### What the spec has answers a next state -/

/-- A command on an idle port completes its issue step (R80, R101). -/
theorem arrive_command_answers {u : State} {p : Nat} (hp : p < u.cfg.nReq) (hs : (u.curAt p).stage = .idle)
    (w : CommandWord) : ∃ t, arrive (.command p w) u = .next t := by
  rw [arrive_of_decode (decode_command_of_port hp w)]
  rcases decodeCommand_cases p w with h | h | h | h | h <;> rw [h]
  · exact ⟨_, (exec_init p u).trans (onIdlePort_of_idle hp hs _)⟩
  · exact ⟨_, (exec_setPixel p _ _ _ _ u).trans (onIdlePort_of_idle hp hs _)⟩
  · exact ⟨_, (exec_clear p u).trans (onIdlePort_of_idle hp hs _)⟩
  · exact ⟨_, (exec_showCmd p u).trans (onIdlePort_of_idle hp hs _)⟩
  · exact ⟨_, (exec_reserved p _ u).trans (onIdlePort_of_idle hp hs _)⟩

/-- A completion event of `ID_W` bits is taken in every state (R111, R112). -/
theorem arrive_event_answers {u : State} {id : Nat} (hid : id < 2 ^ u.cfg.idW) :
    ∃ t, arrive (.event id) u = .next t := by
  rw [arrive_of_decode (decode_event_of_width hid), exec_complete]
  split
  · exact ⟨_, rfl⟩
  · exact ⟨_, rfl⟩

/-- The one step of a requester that can fault is ARM, while a transfer is active (R133). -/
theorem requesterStep_answers {u : State} {p : Nat}
    (harm : (u.curAt p).stage = .arm → u.xfer.active = false) : ∃ t, requesterStep p u = .next t := by
  cases hs : (u.curAt p).stage with
  | arm => exact ⟨_, requesterStep_arm hs (harm hs)⟩
  | _ =>
    simp only [requesterStep, hs]
    exact ⟨_, rfl⟩

theorem engineStep_answers (u : State) : ∃ t, engineStep u = .next t := by
  unfold engineStep
  split_ifs with ha hk hl
  · exact ⟨_, rfl⟩
  · exact ⟨_, completionStep_of_finished ((transferFinished_iff u).2 ⟨ha, hl⟩)⟩
  · exact ⟨_, rfl⟩
  · exact ⟨_, rfl⟩

theorem runMove_answers {m : Move} {u : State} (harm : ∀ p, (u.curAt p).stage = .arm → u.xfer.active = false)
    (hm : u.MayComeNext m) : ∃ t, runMove m u = .next t := by
  match m, hm with
  | .input (.command _ w), ⟨hp, hs⟩ => exact arrive_command_answers hp hs w
  | .input (.event _), ⟨hid, _⟩ => exact arrive_event_answers hid
  | .requester p, _ => exact requesterStep_answers (harm p)
  | .engine, _ => exact engineStep_answers u
  | .reset, _ => exact ⟨_, rfl⟩

/-! ### The free choice -/

/-- Taking a move up leaves the moves the spec has as they were. -/
theorem takeUp_mayComeNext (s : State) (m : Move) : (takeUp s).MayComeNext m ↔ s.MayComeNext m := by
  match m with
  | .input (.command _ _) => simp [State.MayComeNext]
  | .input (.event _) => simp [State.MayComeNext]
  | .requester _ => simp [State.MayComeNext]
  | .engine => exact Iff.rfl
  | .reset => exact Iff.rfl

theorem freeMove_mayComeNext {s : State} (hc : s.cfg.wf = true) : s.MayComeNext (freeMove s) := by
  obtain ⟨-, -, -, hn, -⟩ := (Config.wf_iff s.cfg).1 hc
  rcases freeMove_cases hn with ⟨p, hp, h⟩ | h | ⟨p, w, hp, hs, h⟩ | ⟨id, hid, hne, h⟩ | h <;> rw [h]
  · exact hp
  · trivial
  · exact ⟨hp, hs⟩
  · exact ⟨hid, fun he => absurd he hne⟩
  · trivial

theorem nextMove_of_agenda_nil {s : State} (ha : s.agenda = []) : nextMove s = freeMove s := by
  simp [nextMove, ha]

/-- Under the protocol a requester at ARM owns a transfer not yet started (R34 item 2). -/
theorem protocol_arm_inactive {s : State} (h : s.Protocol) {p : Nat} (hs : (s.curAt p).stage = .arm) :
    s.xfer.active = false :=
  (h.ownerBusy p (by simp [State.owns, hs, Stage.owning])).2

theorem step_answers {s : State} (hc : s.cfg.wf = true) (hp : s.Protocol)
    (hm : s.MayComeNext (nextMove s)) : ∃ t, step s = .next t := by
  rw [step_of_wf hc]
  refine runMove_answers (fun p hs => ?_) ((takeUp_mayComeNext s _).2 hm)
  rw [takeUp_curAt] at hs
  rw [takeUp_xfer]
  exact protocol_arm_inactive hp hs

/-- Settles O7: the agenda's head is the next move, a free choice is a move the spec has, and ARM, the one step
that can fault, cannot under the protocol. -/
theorem stepTakesTheNextMove : Obligations.StepTakesTheNextMove := by
  refine ⟨fun _ _ _ => step_of_agenda_cons, fun _ _ _ => step_of_agenda_cons,
    fun _ _ => step_of_agenda_cons, fun s hc ha => ⟨?_, step_of_agenda_nil hc ha⟩, fun _ => step_answers⟩
  rw [nextMove_of_agenda_nil ha]
  exact freeMove_mayComeNext hc

end Sys2Proof.Proofs
end

section
/-! SUPPORT. Proofs of the statements of spec 10_state.md: what every step keeps, what may change each element of
the state, and the state after reset; with them the frames of SHOW, INIT and COMPLETE and the 24-bit view. -/

namespace Sys2Proof.Proofs

open Sys2Proof Sys2Proof.Machine

/-! ### Requesters after reset -/

theorem curAt_of_cur_replicate {s : State} {n : Nat} (h : s.cur = List.replicate n Cur.ready) (p : Nat) :
    s.curAt p = Cur.ready := by
  rw [State.curAt, h, List.getD_eq_getElem?_getD, List.getElem?_replicate]
  split <;> rfl

theorem owns_of_cur_replicate {s : State} {n : Nat} (h : s.cur = List.replicate n Cur.ready) (p : Nat) :
    s.owns p = false := by
  rw [State.owns, curAt_of_cur_replicate h]
  rfl

/-! ### The shape of the state (R20 to R31): one rule per operation -/

section
variable {s : State}

theorem wf_takeUp (h : s.Wf) : (takeUp s).Wf := by
  rw [takeUp_eq]
  exact { h with }

theorem wf_withPix (h : s.Wf) {v : List Pixel} (hv : v.length = s.cfg.ledCount) : (s.withPix v).Wf :=
  { h with pixLength := hv }

theorem wf_zeroPixels (h : s.Wf) : s.zeroPixels.Wf :=
  wf_withPix h List.length_replicate

theorem wf_storePixel (h : s.Wf) (idx : BitVec 32) (px : Pixel) : (s.storePixel idx px).Wf := by
  by_cases hi : idx.toNat < s.cfg.ledCount
  · rw [storePixel_inRange hi]
    exact wf_withPix h (List.length_set.trans h.pixLength)
  · rwa [storePixel_outOfRange hi]

theorem wf_withBusy (h : s.Wf) (b : Bool) : (s.withBusy b).Wf :=
  { h with }

theorem wf_withXfer (h : s.Wf) {x : Xfer} (hx : x.pos ≤ s.cfg.bufLen) : (s.withXfer x).Wf :=
  { h with posRange := hx }

theorem wf_setCur (h : s.Wf) (p : Nat) {c : Cur} (hk : c.k ≤ s.cfg.bufLen)
    (he : c.stage = .enc → c.k < s.cfg.bufLen) : (s.setCur p c).Wf :=
  { h with
    curLength := List.length_set.trans h.curLength
    kRange := fun d hd => by
      rcases List.mem_or_eq_of_mem_set hd with hd | rfl
      · exact h.kRange d hd
      · exact hk
    encRange := fun d hd => by
      rcases List.mem_or_eq_of_mem_set hd with hd | rfl
      · exact h.encRange d hd
      · exact he }

theorem wf_enterWait (h : s.Wf) (p : Nat) : (s.enterWait p).Wf :=
  wf_setCur h p (Nat.zero_le _) nofun

theorem wf_setCompare (h : s.Wf) {v : Nat} (hv : v < 2 ^ s.cfg.slotW) : (s.setCompare v).Wf :=
  { h with
    cmpRange := hv
    traceRange := fun w hw => by
      rcases List.mem_append.1 hw with hw | hw
      · exact h.traceRange w hw
      · exact List.mem_singleton.1 hw ▸ hv }

theorem wf_writeSlot (h : s.Wf) {k v : Nat} (hk : k < s.cfg.bufLen) (hv : v < 2 ^ s.cfg.slotW) :
    (s.writeSlot k v).Wf :=
  { h with
    wbufWf := memWrite_wf k v h.wbufWf
    wbufRange := fun a ha => by
      rcases mem_memWrite ha with ⟨rfl, -⟩ | ha
      · exact ⟨hk, hv⟩
      · exact h.wbufRange a ha }

theorem wf_endTransfer (h : s.Wf) : s.endTransfer.Wf :=
  wf_withXfer h h.posRange

theorem wf_takeCompletion (h : s.Wf) : (takeCompletion s).Wf :=
  wf_withBusy (wf_setCompare h (Nat.two_pow_pos _)) false

theorem slotAt_lt (h : s.Wf) (k : Nat) : s.slotAt k < 2 ^ s.cfg.slotW :=
  memRead_lt (Nat.two_pow_pos _) (fun a ha => (h.wbufRange a ha).2) k

theorem wf_slotStep (h : s.Wf) (hp : s.xfer.pos < s.cfg.bufLen) : (slotStep s).Wf :=
  wf_withXfer (wf_setCompare h (slotAt_lt h _)) hp

theorem curAt_k_le (h : s.Wf) {p : Nat} (hs : (s.curAt p).stage ≠ .idle) : (s.curAt p).k ≤ s.cfg.bufLen :=
  h.kRange _ (curAt_mem (lt_length_of_stage hs))

end

theorem freeWbuf_wf (c : Config) (draw n : Nat) : Memory.wf (freeWbuf c draw n) = true := by
  induction n with
  | zero => exact Memory.wf_nil
  | succ n ih => exact memWrite_wf _ _ ih

theorem freeWbuf_range (c : Config) (draw n : Nat) :
    ∀ a ∈ freeWbuf c draw n, a.1 < n ∧ a.2 < 2 ^ c.slotW := by
  induction n with
  | zero => nofun
  | succ n ih =>
    intro a ha
    rcases mem_memWrite ha with ⟨rfl, -⟩ | ha
    · exact ⟨Nat.lt_succ_self n, Nat.mod_lt _ (Nat.two_pow_pos _)⟩
    · exact ⟨Nat.lt_succ_of_lt (ih a ha).1, (ih a ha).2⟩

/-- RESET gives the shape whatever it draws (R33). -/
theorem wf_resetStep {s : State} (hc : s.cfg.wf = true) : (resetStep s).Wf where
  cfgOk := hc
  pixLength := by simp [resetStep, freePix]
  curLength := List.length_replicate
  wbufWf := freeWbuf_wf ..
  wbufRange := freeWbuf_range s.cfg s.draws s.cfg.bufLen
  cmpRange := Nat.mod_lt _ (Nat.two_pow_pos _)
  traceRange := nofun
  posRange := Nat.zero_le _
  kRange := fun c hc => by
    obtain rfl := List.eq_of_mem_replicate hc
    exact Nat.zero_le _
  encRange := fun c hc he => by
    obtain rfl := List.eq_of_mem_replicate hc
    cases he

theorem caused_wf {m : Move} {u t : State} (h : Caused m u t) (hu : u.Wf) : t.Wf := by
  cases h with
  | init => exact wf_enterWait (wf_zeroPixels hu) _
  | setPixel => exact wf_storePixel hu _ _
  | clear => exact wf_zeroPixels hu
  | showCmd => exact wf_enterWait hu _
  | delivered => exact wf_takeCompletion (wf_endTransfer hu)
  | completion => exact wf_takeCompletion (wf_endTransfer hu)
  | spurious => exact wf_takeCompletion hu
  | granted => exact wf_setCur (wf_withBusy hu true) _ (Nat.zero_le _) fun _ => bufLen_pos hu.cfgOk
  | encoded hs hk =>
    refine wf_setCur (wf_writeSlot hu hk (enc_lt hu.cfgOk _ _)) _ hk fun he => ?_
    by_contra hlast
    rw [afterSlot_last (Nat.le_antisymm hk (Nat.le_of_not_lt hlast))] at he
    cases he
  | zeroed hs =>
    exact wf_setCur (wf_setCompare hu (Nat.two_pow_pos _)) _ (curAt_k_le hu (by simp [hs])) nofun
  | armed => exact wf_setCur (wf_withXfer hu (Nat.zero_le _)) _ (Nat.zero_le _) nofun
  | slot _ hp => exact wf_slotStep hu hp
  | reset => exact wf_resetStep hu.cfgOk
  | reserved | foreign | nothingToDo | waiting | encodeHeld | engineQuiet | engineHeld => exact hu

/-- Settles O37: every row of R118 is a composition of operations that each keep the shape. -/
theorem stepKeepsTheShape : Obligations.StepKeepsTheShape :=
  fun _ _ hs h => caused_wf (step_next h).2 (wf_takeUp hs)

/-! ### The protocol (R34) -/

section
variable {s : State} {p : Nat}

theorem owns_of_stage {st : Stage} (hs : (s.curAt p).stage = st) (ho : st.owning = true) : s.owns p = true := by
  rw [State.owns, hs, ho]

theorem lt_length_of_owns (hp : s.owns p = true) : p < s.cur.length :=
  lt_length_of_stage fun hs => by simp [State.owns, hs, Stage.owning] at hp

/-- With no owner, all that is left of the protocol is what it asks of a transfer in flight. -/
theorem protocol_of_noOwner (hown : ∀ q, s.owns q = false)
    (hact : s.xfer.active = true → s.busy = true ∧ ∀ k, k < s.cfg.bufLen → s.slotEncoded k) : s.Protocol where
  idleQuiet := fun hb => ⟨hown, Bool.eq_false_iff.2 fun ha => absurd (hact ha).1 (by simp [hb])⟩
  oneOwner := fun q _ hq _ => absurd hq (by simp [hown q])
  ownerBusy := fun q hq => absurd hq (by simp [hown q])
  activeBusy := fun ha => ⟨(hact ha).1, hown⟩
  encodedPart := fun q hq => absurd (owns_of_stage hq rfl) (by simp [hown q])
  encodedWhole := fun q hq => absurd (hq.elim (owns_of_stage · rfl) (owns_of_stage · rfl)) (by simp [hown q])
  activeEncoded := fun ha => (hact ha).2

/-- With `p` the only owner there can be, the protocol is what it asks of the record of `p`. -/
theorem protocol_of_owner (honly : ∀ q, s.owns q = true → q = p) (hbusy : s.busy = true)
    (hact : s.xfer.active = false)
    (hpart : (s.curAt p).stage = .enc → ∀ k, k < (s.curAt p).k → s.slotEncoded k)
    (hwhole : (s.curAt p).stage = .zero ∨ (s.curAt p).stage = .arm →
      ∀ k, k < s.cfg.bufLen → s.slotEncoded k) : s.Protocol where
  idleQuiet := fun hb => absurd hbusy (by simp [hb])
  oneOwner := fun q r hq hr => (honly q hq).trans (honly r hr).symm
  ownerBusy := fun _ _ => ⟨hbusy, hact⟩
  activeBusy := fun ha => absurd ha (by simp [hact])
  encodedPart := fun q hq => by
    obtain rfl := honly q (owns_of_stage hq rfl)
    exact hpart hq
  encodedWhole := fun q hq => by
    obtain rfl := honly q (hq.elim (owns_of_stage · rfl) (owns_of_stage · rfl))
    exact hwhole hq
  activeEncoded := fun ha => absurd ha (by simp [hact])

theorem owns_setCur_ne {q : Nat} (hq : q ≠ p) (c : Cur) : (s.setCur p c).owns q = s.owns q := by
  simp only [State.owns, curAt_setCur_ne hq]

/-- Writing the record of `p` makes no other requester an owner. -/
theorem onlyOwner_setCur (honly : ∀ q, s.owns q = true → q = p) (c : Cur) :
    ∀ q, (s.setCur p c).owns q = true → q = p := by
  intro q hq
  by_contra hne
  exact hne (honly q (owns_setCur_ne hne c ▸ hq))

/-- A requester that takes part in no transfer may be given any other such record. -/
theorem protocol_setCur_notOwning (h : s.Protocol) {c : Cur} (hp : s.owns p = false)
    (hc : c.stage.owning = false) : (s.setCur p c).Protocol := by
  have hown : ∀ q, (s.setCur p c).owns q = s.owns q := fun q => by
    by_cases hq : q = p ∧ p < s.cur.length
    · rw [State.owns, curAt_setCur, if_pos hq, hc, hq.1, hp]
    · rw [State.owns, curAt_setCur, if_neg hq, State.owns]
  have hsame : ∀ q, s.owns q = true → (s.setCur p c).curAt q = s.curAt q := fun q hq =>
    curAt_setCur_ne (by rintro rfl; simp [hp] at hq) c
  exact {
    idleQuiet := by simpa [hown] using h.idleQuiet
    oneOwner := by simpa [hown] using h.oneOwner
    ownerBusy := by simpa [hown] using h.ownerBusy
    activeBusy := by simpa [hown] using h.activeBusy
    encodedPart := fun q hq => by
      have hcur := hsame q (hown q ▸ owns_of_stage hq rfl)
      rw [hcur] at hq ⊢
      exact h.encodedPart q hq
    encodedWhole := fun q hq => by
      have hcur := hsame q (hown q ▸ hq.elim (owns_of_stage · rfl) (owns_of_stage · rfl))
      rw [hcur] at hq
      exact h.encodedWhole q hq
    activeEncoded := h.activeEncoded }

theorem owns_of_idle (hs : (s.curAt p).stage = .idle) : s.owns p = false := by
  rw [State.owns, hs, Stage.owning]

theorem protocol_enterWait (h : s.Protocol) (hs : (s.curAt p).stage = .idle) : (s.enterWait p).Protocol :=
  protocol_setCur_notOwning h (owns_of_idle hs) rfl

theorem protocol_takeUp (h : s.Protocol) : (takeUp s).Protocol := by
  rw [takeUp_eq]
  exact { h with }

theorem protocol_withPix (h : s.Protocol) (v : List Pixel) : (s.withPix v).Protocol :=
  { h with }

theorem protocol_storePixel (h : s.Protocol) (idx : BitVec 32) (px : Pixel) : (s.storePixel idx px).Protocol := by
  rw [storePixel_frame]
  exact protocol_withPix h _

theorem protocol_slotStep (h : s.Protocol) : (slotStep s).Protocol :=
  { h with }

/-- Idle is left with no owner yet, so the requester granted is the only one. -/
theorem protocol_granted (h : s.Protocol) (hs : (s.curAt p).stage = .wait) (hb : s.busy = false) :
    ((s.withBusy true).setCur p { stage := .enc, k := 0 }).Protocol := by
  obtain ⟨hnone, hact⟩ := h.idleQuiet hb
  have hcur : ((s.withBusy true).setCur p { stage := .enc, k := 0 }).curAt p = { stage := .enc, k := 0 } :=
    curAt_setCur_same (s := s.withBusy true) (lt_length_of_stage (s := s) (by simp [hs])) _
  have honly : ∀ q, s.owns q = true → q = p := fun q hq => absurd hq (by simp [hnone q])
  refine protocol_of_owner (onlyOwner_setCur (s := s.withBusy true) honly _) rfl hact ?_ ?_
  · rw [hcur]
    exact fun _ _ hk => absurd hk (Nat.not_lt_zero _)
  · rw [hcur]
    nofun

theorem slotEncoded_of_enc {k : Nat} (hk : s.slotAt k = enc s.cfg k s.pix) : s.slotEncoded k := by
  rw [State.slotEncoded, hk]
  exact ⟨enc_cases .., (enc_reset · _)⟩

/-- The slot an encode writes joins those it has written. -/
theorem slotEncoded_writeSlot (hw : Memory.wf s.wbuf = true) {j : Nat} (h : ∀ k, k < j → s.slotEncoded k) :
    ∀ k, k < j + 1 → (s.writeSlot j (enc s.cfg j s.pix)).slotEncoded k := by
  intro k hk
  by_cases hkj : k = j
  · subst hkj
    exact slotEncoded_of_enc (s := s.writeSlot k _) (slotAt_writeSlot_same hw k _)
  · rw [State.slotEncoded, slotAt_writeSlot_ne hkj]
    exact h k (by omega)

theorem protocol_encoded (h : s.Protocol) (hw : Memory.wf s.wbuf = true) (hs : (s.curAt p).stage = .enc) :
    ((s.writeSlot (s.curAt p).k (enc s.cfg (s.curAt p).k s.pix)).setCur p
      (afterSlot s.cfg (s.curAt p).k)).Protocol := by
  have hp : s.owns p = true := owns_of_stage hs rfl
  obtain ⟨hbusy, hact⟩ := h.ownerBusy p hp
  have hslots := slotEncoded_writeSlot hw (h.encodedPart p hs)
  refine protocol_of_owner
    (onlyOwner_setCur (s := s.writeSlot _ _) (fun q hq => h.oneOwner q p hq hp) _) hbusy hact ?_ ?_
  · rw [curAt_setCur_same (s := s.writeSlot _ _) (lt_length_of_owns (s := s) hp)]
    exact fun _ => hslots
  · rw [curAt_setCur_same (s := s.writeSlot _ _) (lt_length_of_owns (s := s) hp)]
    intro hdone
    have hlast : (s.curAt p).k + 1 = s.cfg.bufLen := by
      by_contra hmore
      simp [afterSlot_more hmore] at hdone
    exact hlast ▸ hslots

theorem protocol_zeroed (h : s.Protocol) (hs : (s.curAt p).stage = .zero) :
    ((s.setCompare 0).setCur p { stage := .arm, k := (s.curAt p).k }).Protocol := by
  have hp : s.owns p = true := owns_of_stage hs rfl
  obtain ⟨hbusy, hact⟩ := h.ownerBusy p hp
  refine protocol_of_owner
    (onlyOwner_setCur (s := s.setCompare 0) (fun q hq => h.oneOwner q p hq hp) _) hbusy hact ?_ ?_
  · rw [curAt_setCur_same (s := s.setCompare 0) (lt_length_of_owns (s := s) hp)]
    nofun
  · exact fun _ => h.encodedWhole p (.inl hs)

/-- The owner returns in the step that starts the transfer, so the transfer has no owner. -/
theorem protocol_armed (h : s.Protocol) (hs : (s.curAt p).stage = .arm) :
    ((s.withXfer { active := true, pos := 0 }).setCur p Cur.ready).Protocol := by
  have hp : s.owns p = true := owns_of_stage hs rfl
  refine protocol_of_noOwner (fun q => ?_) fun _ => ⟨(h.ownerBusy p hp).1, h.encodedWhole p (.inr hs)⟩
  by_contra hq
  rw [Bool.not_eq_false] at hq
  obtain rfl := onlyOwner_setCur (s := s.withXfer _) (fun q hq => h.oneOwner q p hq hp) _ q hq
  have hcur : ((s.withXfer { active := true, pos := 0 }).setCur q Cur.ready).curAt q = Cur.ready :=
    curAt_setCur_same (s := s.withXfer _) (lt_length_of_owns (s := s) hp) _
  rw [State.owns, hcur] at hq
  cases hq

theorem protocol_completed (h : s.Protocol) (hf : s.transferFinished = true) :
    (takeCompletion s.endTransfer).Protocol :=
  protocol_of_noOwner (h.activeBusy ((transferFinished_iff s).1 hf).1).2 nofun

theorem protocol_resetStep : (resetStep s).Protocol :=
  protocol_of_noOwner (owns_of_cur_replicate rfl) nofun

end

theorem caused_protocol {m : Move} {u t : State} (h : Caused m u t) (hw : u.Wf) (hu : u.Protocol)
    (hk : u.KeepsContract m) : t.Protocol := by
  cases h with
  | init _ hs => exact protocol_enterWait (protocol_withPix hu _) hs
  | setPixel => exact protocol_storePixel hu _ _
  | clear => exact protocol_withPix hu _
  | showCmd _ hs => exact protocol_enterWait hu hs
  | delivered hf => exact protocol_completed hu hf
  | completion hf => exact protocol_completed hu hf
  | spurious hf => exact absurd (hk rfl) (by simp [hf])
  | granted hs hb => exact protocol_granted hu hs hb
  | encoded hs => exact protocol_encoded hu hw.wbufWf hs
  | zeroed hs => exact protocol_zeroed hu hs
  | armed hs => exact protocol_armed hu hs
  | slot => exact protocol_slotStep hu
  | reset => exact protocol_resetStep
  | reserved | foreign | nothingToDo | waiting | encodeHeld | engineQuiet | engineHeld => exact hu

theorem takeUp_keepsContract (s : State) (m : Move) : (takeUp s).KeepsContract m ↔ s.KeepsContract m := by
  simp [State.KeepsContract]

/-- Settles O38: a move either leaves what the protocol reads as it was, or passes the transfer on from Idle to an
owner, within that owner's stages, from it to the engine, and back to Idle. -/
theorem stepKeepsTheProtocol : Obligations.StepKeepsTheProtocol :=
  fun s _ hw hs hk h => caused_protocol (step_next h).2 (wf_takeUp hw) (protocol_takeUp hs)
    ((takeUp_keepsContract s _).2 hk)

/-! ### No fault under the protocol (R133) -/

theorem arrive_ne_fault (x : Input) (u : State) (r : Fault) : arrive x u ≠ .fault r := by
  unfold arrive
  split
  · exact exec_ne_fault _ _ r
  · nofun

/-- Only ARM faults, and only while a transfer is active. -/
theorem runMove_ne_fault {u : State} (harm : ∀ p, (u.curAt p).stage = .arm → u.xfer.active = false) (m : Move)
    (r : Fault) : runMove m u ≠ .fault r := by
  cases m with
  | input x => exact arrive_ne_fault x u r
  | requester p =>
    obtain ⟨t, ht⟩ := requesterStep_answers (harm p)
    simp [runMove, ht]
  | engine =>
    obtain ⟨t, ht⟩ := engineStep_answers u
    simp [runMove, ht]
  | reset => nofun

/-- Settles O39: a requester at ARM owns a transfer that is not active yet (R34 item 2). -/
theorem protocolExcludesTheFault : Obligations.ProtocolExcludesTheFault := by
  intro s r hp
  unfold step
  split
  · exact runMove_ne_fault (fun _ => protocol_arm_inactive (protocol_takeUp hp)) _ r
  · nofun

/-! ### The compare value and the trace (R31, R130) -/

theorem compareTraced_setCompare (s : State) (v : Nat) : (s.setCompare v).CompareTraced := by
  intro w hw
  simpa using hw.symm

theorem compareTraced_storePixel {s : State} (h : s.CompareTraced) (idx : BitVec 32) (px : Pixel) :
    (s.storePixel idx px).CompareTraced := by
  rw [storePixel_frame]
  exact h

theorem caused_compareTraced {m : Move} {u t : State} (h : Caused m u t) (hu : u.CompareTraced) :
    t.CompareTraced := by
  cases h with
  | setPixel => exact compareTraced_storePixel hu _ _
  | delivered | completion => exact compareTraced_setCompare u.endTransfer 0
  | spurious | zeroed => exact compareTraced_setCompare u 0
  | slot => exact compareTraced_setCompare u _
  | reset => nofun
  | _ => exact hu

/-- Settles O41: `CMP` and `TRACE` are written together, by SET_COMPARE and the SLOT step, and RESET empties
`TRACE`. -/
theorem stepKeepsCompareTraced : Obligations.StepKeepsCompareTraced := by
  intro s t hs h
  refine caused_compareTraced (step_next h).2 ?_
  rwa [State.CompareTraced, takeUp_trace, takeUp_cmp]

/-! ### The state after reset (R33, R160) -/

/-- Settles O43: every record is idle and no transfer is in flight. -/
theorem resetMeetsTheInvariants : Obligations.ResetMeetsTheInvariants := by
  intro c hc
  have hwf : (State.resetWith c).Wf :=
    { cfgOk := hc
      pixLength := List.length_replicate
      curLength := List.length_replicate
      wbufWf := Memory.wf_nil
      wbufRange := nofun
      cmpRange := Nat.two_pow_pos _
      traceRange := nofun
      posRange := Nat.zero_le _
      kRange := by simp [State.resetWith]
      encRange := by simp [State.resetWith] }
  have hprotocol : (State.resetWith c).Protocol := protocol_of_noOwner (owns_of_cur_replicate rfl) nofun
  exact ⟨hwf, hprotocol, nofun, nofun, nofun, by simp [State.final, State.resetWith]⟩

/-- Settles O44, by evaluating the state after reset; the records are `curAt_of_cur_replicate`. -/
theorem resetValues : Obligations.ResetValues :=
  ⟨rfl, rfl, rfl, List.length_replicate, curAt_of_cur_replicate rfl, List.length_replicate⟩

/-- Settles O45: the step is `resetStep` on the state that has lost the move. -/
theorem resetEventGivesTheResetValues : Obligations.ResetEventGivesTheResetValues := by
  intro s rest hc ha
  refine ⟨resetStep (s.withAgenda rest), ?_, rfl, rfl, rfl, rfl, rfl, curAt_of_cur_replicate rfl⟩
  rw [step_of_agenda_cons hc ha]
  rfl

/-! ### What may change each element of the state (R35) -/

/-- Settles O46: `caused_cfg` for the step. -/
theorem parametersNeverChange : Obligations.ParametersNeverChange :=
  fun s _ h => (caused_cfg (step_next h).2).trans (takeUp_cfg s)

section
variable {m : Move} {u t : State}

/-- `BUSY` keeps its value, or a GRANT sets it, or a completion or RESET clears it (R100). -/
theorem caused_busy (h : Caused m u t) :
    t.busy = u.busy ∨
    (∃ p, m = .requester p ∧ (u.curAt p).stage = .wait ∧ t.busy = true ∧ (t.curAt p).stage = .enc) ∨
    (t.busy = false ∧
      (m = .reset ∨ m = .input (.event u.cfg.timId) ∨ (m = .engine ∧ u.transferFinished = true))) := by
  cases h with
  | setPixel => exact .inl (by rw [storePixel_frame, State.withPix_busy])
  | granted hs _ =>
    refine .inr (.inl ⟨_, rfl, hs, rfl, ?_⟩)
    rw [curAt_setCur_same (s := u.withBusy true) (lt_length_of_stage (s := u) (by simp [hs]))]
  | delivered | spurious => exact .inr (.inr ⟨rfl, .inr (.inl rfl)⟩)
  | completion hf => exact .inr (.inr ⟨rfl, .inr (.inr ⟨rfl, hf⟩)⟩)
  | reset => exact .inr (.inr ⟨rfl, .inl rfl⟩)
  | _ => exact .inl rfl

theorem caused_slotAt (h : Caused m u t) (k : Nat) :
    t.slotAt k = u.slotAt k ∨ m = .reset ∨
    ∃ p, m = .requester p ∧ (u.curAt p).stage = .enc ∧ (u.curAt p).k = k := by
  cases h with
  | setPixel => exact .inl (by rw [storePixel_frame]; rfl)
  | @encoded _ p hs _ =>
    by_cases hk : k = (u.curAt p).k
    · exact .inr (.inr ⟨p, rfl, hs, hk.symm⟩)
    · exact .inl (slotAt_writeSlot_ne hk _)
  | reset => exact .inr (.inl rfl)
  | _ => exact .inl rfl

theorem opcodeOf_decodeCommand (p : Nat) (w : CommandWord) :
    Laws.opcodeOf (decodeCommand p w) = some (fieldOp w) := by
  unfold decodeCommand
  split_ifs with h1 h2 h3 h4
  · exact congrArg some h1.symm
  · exact congrArg some h2.symm
  · exact congrArg some h3.symm
  · exact congrArg some h4.symm
  · rfl

/-- The opcode field of a command word is that of the instruction it decodes to (R61). -/
theorem fieldOp_of_decode {c : Config} {p : Nat} {w : CommandWord} {i : Instr} {op : BitVec 4}
    (h : decode c (.command p w) = .ok i) (hi : Laws.opcodeOf i = some op) : fieldOp w = op := by
  rw [(decode_command h).2, opcodeOf_decodeCommand] at hi
  exact Option.some.inj hi

theorem caused_pix (h : Caused m u t) :
    t.pix = u.pix ∨ m = .reset ∨
    ∃ p w, m = .input (.command p w) ∧ (fieldOp w = 0x1#4 ∨ fieldOp w = 0x2#4 ∨ fieldOp w = 0x3#4) := by
  cases h with
  | init hi => exact .inr (.inr ⟨_, _, rfl, .inl (fieldOp_of_decode hi rfl)⟩)
  | setPixel hi => exact .inr (.inr ⟨_, _, rfl, .inr (.inl (fieldOp_of_decode hi rfl))⟩)
  | clear hi => exact .inr (.inr ⟨_, _, rfl, .inr (.inr (fieldOp_of_decode hi rfl))⟩)
  | reset => exact .inr (.inl rfl)
  | _ => exact .inl rfl

/-- An update of the record of `q` changes that of no other requester. -/
theorem curAt_setCur_or (s : State) (p q : Nat) (c : Cur) : (s.setCur q c).curAt p = s.curAt p ∨ q = p :=
  or_iff_not_imp_right.2 fun hqp => curAt_setCur_ne (Ne.symm hqp) c

theorem caused_curAt (h : Caused m u t) (p : Nat) :
    t.curAt p = u.curAt p ∨ m = .reset ∨ m = .requester p ∨
    ∃ w, m = .input (.command p w) ∧ (fieldOp w = 0x1#4 ∨ fieldOp w = 0x4#4) := by
  cases h with
  | init hi =>
    refine Or.imp_right ?_ (curAt_setCur_or _ p _ _)
    rintro rfl
    exact .inr (.inr ⟨_, rfl, .inl (fieldOp_of_decode hi rfl)⟩)
  | showCmd hi =>
    refine Or.imp_right ?_ (curAt_setCur_or _ p _ _)
    rintro rfl
    exact .inr (.inr ⟨_, rfl, .inr (fieldOp_of_decode hi rfl)⟩)
  | setPixel => exact .inl (by rw [storePixel_frame]; rfl)
  | granted | encoded | zeroed | armed =>
    exact Or.imp_right (fun e => .inr (.inl (congrArg Move.requester e))) (curAt_setCur_or _ p _ _)
  | reset => exact .inr (.inl rfl)
  | _ => exact .inl rfl

/-- `CMP` is written by a completion, the ZERO step, the SLOT step and RESET (R37). -/
theorem caused_cmp (h : Caused m u t) :
    t.cmp = u.cmp ∨ m = .reset ∨ t.cmp = 0 ∨
    (u.xfer.active = true ∧ u.xfer.pos < u.cfg.bufLen ∧ t.cmp = u.slotAt u.xfer.pos) := by
  cases h with
  | setPixel => exact .inl (by rw [storePixel_frame, State.withPix_cmp])
  | delivered | spurious | completion | zeroed => exact .inr (.inr (.inl rfl))
  | slot ha hp => exact .inr (.inr (.inr ⟨ha, hp, rfl⟩))
  | reset => exact .inr (.inl rfl)
  | _ => exact .inl rfl

end

/-- Settles O47: of the three outcomes of `caused_busy`, only a GRANT sets the flag. -/
theorem onlyAGrantSetsBusy : Obligations.OnlyAGrantSetsBusy := by
  intro s t h hs ht
  rcases caused_busy (step_next h).2 with hb | ⟨p, hm, hw, -, he⟩ | ⟨hb, -⟩
  · simp [hs, ht] at hb
  · exact ⟨p, hm, takeUp_curAt s p ▸ hw, he⟩
  · simp [ht] at hb

/-- Settles O48: of the three outcomes of `caused_busy`, only the last clears the flag. -/
theorem onlyACompletionClearsBusy : Obligations.OnlyACompletionClearsBusy := by
  intro s t h hs ht
  rcases caused_busy (step_next h).2 with hb | ⟨_, -, -, hb, -⟩ | ⟨-, hm⟩
  · simp [hs, ht] at hb
  · simp [ht] at hb
  · simpa only [takeUp_cfg, takeUp_transferFinished, transferFinished_iff] using hm

/-- Settles O49, by `caused_slotAt`. -/
theorem onlyAnEncStepWritesASlot : Obligations.OnlyAnEncStepWritesASlot := by
  intro s t k h hne
  have hcases := caused_slotAt (step_next h).2 k
  simp only [takeUp_slotAt, takeUp_curAt] at hcases
  exact hcases.resolve_left hne

/-- Settles O50, by `caused_pix`. -/
theorem onlyCommandsWriteThePixelStore : Obligations.OnlyCommandsWriteThePixelStore := by
  intro s t h hne
  exact (caused_pix (step_next h).2).resolve_left (takeUp_pix s ▸ hne)

/-- Settles O51, by `caused_curAt`. -/
theorem requesterRecordsArePrivate : Obligations.RequesterRecordsArePrivate := by
  intro s t p h hne
  exact (caused_curAt (step_next h).2 p).resolve_left (takeUp_curAt s p ▸ hne)

/-- Settles O53: the SLOT step reads a slot of a finished encode (R34 item 5). -/
theorem compareValuesAreLegal : Obligations.CompareValuesAreLegal := by
  intro s t hp h hne
  have hcases := caused_cmp (step_next h).2
  simp only [takeUp_cmp, takeUp_xfer, takeUp_cfg, takeUp_slotAt] at hcases
  rcases hcases.resolve_left hne with hm | h0 | ⟨ha, hpos, hv⟩
  · exact .inl hm
  · exact .inr (.inl h0)
  · rw [hv]
    exact .inr (hp.activeEncoded ha _ hpos).1

/-! ### The frames of SHOW, INIT and COMPLETE (R101, R108, R111) -/

/-- Settles O16: each command is the one update of its issue step, or the completion's writes. -/
theorem controllerCommandsFrame : Obligations.ControllerCommandsFrame := by
  intro s t p id
  refine ⟨fun h => ?_, fun h => ?_, fun h => ?_⟩
  · rw [exec_showCmd] at h
    obtain ⟨-, -, rfl⟩ := onIdlePort_next h
    exact ⟨rfl, fun q hq => curAt_setCur_ne hq _, fun _ => rfl⟩
  · rw [exec_init] at h
    obtain ⟨-, -, rfl⟩ := onIdlePort_next h
    exact ⟨rfl, fun q hq => curAt_setCur_ne (s := s.zeroPixels) hq _, fun _ => rfl⟩
  · rw [exec_complete] at h
    split at h
    · cases h
      exact ⟨rfl, fun _ => rfl⟩
    · cases h
      exact ⟨rfl, fun _ => rfl⟩

/-! ### The 24-bit view (R22, R69) -/

/-- Bit `23 - j` of the view is bit `7 - j % 8` of channel `j / 8`. -/
theorem e24_getLsbD (px : Pixel) {j : Nat} (hj : j < 24) :
    px.e24.getLsbD (23 - j) = (px.ch (j / 8)).getLsbD (7 - j % 8) := by
  have hchan : j / 8 = 0 ∨ j / 8 = 1 ∨ j / 8 = 2 := by omega
  rw [Pixel.e24, BitVec.getLsbD_append, BitVec.getLsbD_append]
  rcases hchan with hc | hc | hc <;> rw [hc]
  · rw [if_neg (by omega), if_neg (by omega), show 23 - j - 8 - 8 = 7 - j % 8 by omega]
    rfl
  · rw [if_neg (by omega), if_pos (by omega), show 23 - j - 8 = 7 - j % 8 by omega]
    rfl
  · rw [if_pos (by omega), show 23 - j = 7 - j % 8 by omega]
    rfl

/-- Settles O31: the slot's channel and bit, read in the view. -/
theorem encReadsTheE24View : Obligations.EncReadsTheE24View := by
  intro c P k hk
  rw [enc_data hk, bitOf_eq_getLsbD, slotLed, slotChan, slotBit, e24_getLsbD _ (Nat.mod_lt k (by decide)),
    Nat.mod_mod_of_dvd k (by decide : 8 ∣ 24), pulse]

end Sys2Proof.Proofs
end

section
/-! SUPPORT. Proofs of the statements of spec 20_memory.md: the byte-addressed view, and one SHOW from its grant to
its completion when no other agent moves. -/

namespace Sys2Proof.Proofs

open Sys2Proof Sys2Proof.Machine

/-! ### The byte-addressed view (R44, R45) -/

/-- Byte `j` of block `k`, in blocks of `w` bytes, lies in the first `n` blocks when `k < n`. -/
theorem blockOffset_lt {w n k j : Nat} (hk : k < n) (hj : j < w) : k * w + j < n * w :=
  calc k * w + j < k * w + w := Nat.add_lt_add_left hj _
    _ = (k + 1) * w := (Nat.succ_mul k w).symm
    _ ≤ n * w := Nat.mul_le_mul_right w hk

theorem blockOffset_div {w j : Nat} (k : Nat) (hj : j < w) : (k * w + j) / w = k := by
  rw [Nat.mul_comm, Nat.mul_add_div (Nat.zero_lt_of_lt hj), Nat.div_eq_of_lt hj, Nat.add_zero]

theorem blockOffset_mod {w j : Nat} (k : Nat) (hj : j < w) : (k * w + j) % w = j := by
  rw [Nat.mul_add_mod_self_right, Nat.mod_eq_of_lt hj]

/-- Byte `j` of slot `k` lies at offset `k * slotBytes + j`. -/
theorem wbufByte_of_slot {s : State} {base k j : Nat} (hb : wbufBaseOk s.cfg base = true)
    (hk : k < s.cfg.bufLen) (hj : j < slotBytes s.cfg) :
    s.wbufByte base (base + k * slotBytes s.cfg + j) = some (slotByte (s.slotAt k) j) := by
  have hoff : base + k * slotBytes s.cfg + j - base = k * slotBytes s.cfg + j := by omega
  rw [State.wbufByte, hoff, if_pos ⟨hb, by omega, blockOffset_lt hk hj⟩, blockOffset_div k hj,
    blockOffset_mod k hj]

/-- Channel `ch` of entry `i` lies at offset `3 * i + ch`. -/
theorem pixByte_of_entry {s : State} (pixbase : Nat) {i ch : Nat} (hi : i < s.cfg.ledCount) (hch : ch < 3) :
    s.pixByte pixbase (pixbase + 3 * i + ch) = some ((s.pixAt i).ch ch) := by
  have hoff : pixbase + 3 * i + ch - pixbase = 3 * i + ch := by omega
  rw [State.pixByte, hoff, if_pos (by omega), show (3 * i + ch) / 3 = i by omega,
    show (3 * i + ch) % 3 = ch by omega]

/-- Settles O58: the view's division by the bytes of a slot, or of an entry, undoes the layout. -/
theorem byteViewLayout : Obligations.ByteViewLayout := by
  intro s base _ hw8 hbase
  have hb : wbufBaseOk s.cfg base = true := by simp [wbufBaseOk, slotBytes, hw8, hbase]
  exact ⟨fun k j hk hj => wbufByte_of_slot hb hk hj, fun pixbase _ _ => pixByte_of_entry pixbase⟩

/-! ### Sequences of moves -/

theorem runMoves_cons {m : Move} {s u : State} (ms : List Move) (h : runMove m s = .next u) :
    runMoves (m :: ms) s = runMoves ms u := by
  simp only [runMoves, h]

theorem runMoves_append {ms : List Move} {s u : State} (ns : List Move) (h : runMoves ms s = .next u) :
    runMoves (ms ++ ns) s = runMoves ns u := by
  induction ms generalizing s with
  | nil => cases h; rfl
  | cons m ms ih =>
    obtain ⟨v, hv, hrest⟩ := runMoves_cons_next h
    rw [List.cons_append, runMoves_cons _ hv, ih hrest]

/-- One more move at the end. -/
theorem runMoves_replicate_succ {m : Move} {n : Nat} {s u t : State}
    (h : runMoves (List.replicate n m) s = .next u) (hm : runMove m u = .next t) :
    runMoves (List.replicate (n + 1) m) s = .next t := by
  rw [List.replicate_succ', runMoves_append _ h, runMoves_cons _ hm, runMoves]

/-- The moves of an agenda, whatever follows them, are carried out by as many steps. -/
theorem runSteps_of_agenda {s t : State} {ms rest : List Move} (hc : s.cfg.wf = true)
    (ha : s.agenda = ms ++ rest) (h : runMoves ms (s.withAgenda rest) = .next t) :
    runSteps ms.length s = .next t := by
  have hrun := runSteps_of_runMoves ms (s := s.withAgenda rest) hc h
  rw [State.withAgenda_agenda, ← ha] at hrun
  exact hrun

/-! ### The whole encode (R91, R93, R94) -/

/-- Of two updates of one record the second stays. -/
theorem setCur_setCur (s : State) (p : Nat) (c d : Cur) : (s.setCur p c).setCur p d = s.setCur p d :=
  congrArg s.withCur (List.set_set ..)

/-- The Waveform Buffer `m` once slots 0 to `n - 1` are encoded from the store `P`. -/
def encodeSlots (c : Config) (P : List Pixel) (m : Memory) : Nat → Memory
  | 0 => m
  | n + 1 => memWrite (encodeSlots c P m n) n (enc c n P)

theorem encodeSlots_wf (c : Config) (P : List Pixel) {m : Memory} (hm : Memory.wf m = true) (n : Nat) :
    Memory.wf (encodeSlots c P m n) = true := by
  induction n with
  | zero => exact hm
  | succ n ih => exact memWrite_wf _ _ ih

theorem memRead_encodeSlots (c : Config) (P : List Pixel) {m : Memory} (hm : Memory.wf m = true) (n k : Nat) :
    memRead (encodeSlots c P m n) k = if k < n then enc c k P else memRead m k := by
  induction n with
  | zero => simp [encodeSlots]
  | succ n ih =>
    rw [encodeSlots]
    by_cases hk : k = n
    · subst hk
      rw [memRead_memWrite_same (encodeSlots_wf c P hm k), if_pos (Nat.lt_succ_self k)]
    · rw [memRead_memWrite_ne hk, ih]
      simp only [show k < n + 1 ↔ k < n by omega]

/-- The record of the owner once `n` slots are encoded: at ZERO after the last, at ENC before (R92). -/
def encodingCur (c : Config) (n : Nat) : Cur := { stage := if n = c.bufLen then .zero else .enc, k := n }

theorem encodingCur_unfinished {c : Config} {n : Nat} (hn : n < c.bufLen) :
    encodingCur c n = { stage := .enc, k := n } := by
  rw [encodingCur, if_neg (Nat.ne_of_lt hn)]

theorem encodingCur_finished (c : Config) : encodingCur c c.bufLen = { stage := .zero, k := c.bufLen } := by
  rw [encodingCur, if_pos rfl]

theorem afterSlot_eq_encodingCur (c : Config) (n : Nat) : afterSlot c n = encodingCur c (n + 1) := rfl

section
variable {s : State} {p : Nat}

/-- The ENC step of an owner whose record says slot `n`. -/
theorem requesterStep_encoding (hp : p < s.cur.length) {n : Nat} (hn : n < s.cfg.bufLen) :
    requesterStep p (s.setCur p (encodingCur s.cfg n)) =
      .next ((s.writeSlot n (enc s.cfg n s.pix)).setCur p (encodingCur s.cfg (n + 1))) := by
  have hcur : (s.setCur p (encodingCur s.cfg n)).curAt p = { stage := .enc, k := n } := by
    rw [curAt_setCur_same hp, encodingCur_unfinished hn]
  rw [requesterStep_enc (by rw [hcur]) (by rw [hcur]; exact hn), hcur, afterSlot_eq_encodingCur]
  exact congrArg _ (setCur_setCur (s.writeSlot n (enc s.cfg n s.pix)) p _ _)

/-- `n` moves of an owner that has encoded nothing yet encode the slots 0 to `n - 1`. -/
theorem runMoves_encode (hp : p < s.cur.length) {n : Nat} (hn : n ≤ s.cfg.bufLen) :
    runMoves (List.replicate n (.requester p)) (s.setCur p (encodingCur s.cfg 0)) =
      .next ((s.withWbuf (encodeSlots s.cfg s.pix s.wbuf n)).setCur p (encodingCur s.cfg n)) := by
  induction n with
  | zero => rfl
  | succ n ih =>
    exact runMoves_replicate_succ (ih (Nat.le_of_succ_le hn))
      (requesterStep_encoding (s := s.withWbuf (encodeSlots s.cfg s.pix s.wbuf n)) hp hn)

/-! ### From the grant to the start of the transfer (R103 to R107) -/

/-- The owner's moves after its encode: ZERO, then ARM. -/
theorem runMoves_zeroArm (hp : p < s.cur.length) (hx : s.xfer.active = false) (k : Nat) :
    runMoves [.requester p, .requester p] (s.setCur p { stage := .zero, k := k }) =
      .next (((s.setCompare 0).setCur p Cur.ready).withXfer { active := true, pos := 0 }) := by
  have hzero : runMove (.requester p) (s.setCur p { stage := .zero, k := k }) =
      .next ((s.setCompare 0).setCur p { stage := .arm, k := k }) := by
    rw [runMove, requesterStep_zero (by rw [curAt_setCur_same hp]), curAt_setCur_same hp]
    exact congrArg _ (setCur_setCur (s.setCompare 0) p _ _)
  have harm : runMove (.requester p) ((s.setCompare 0).setCur p { stage := .arm, k := k }) =
      .next (((s.setCompare 0).setCur p Cur.ready).withXfer { active := true, pos := 0 }) := by
    rw [runMove, requesterStep_arm (s := (s.setCompare 0).setCur p { stage := .arm, k := k })
      (by rw [curAt_setCur_same (s := s.setCompare 0) hp]) hx]
    exact congrArg _ (setCur_setCur ((s.setCompare 0).withXfer { active := true, pos := 0 }) p _ _)
  rw [runMoves_cons _ hzero, runMoves_cons _ harm, runMoves]

/-- A waiter that finds the controller Idle is granted, encodes the whole buffer, forces the line low and starts
the transfer, in `BUF_LEN + 3` moves of its own. -/
theorem runMoves_show (hc : s.cfg.wf = true) (hs : (s.curAt p).stage = .wait) (hb : s.busy = false)
    (hx : s.xfer.active = false) :
    runMoves (List.replicate (s.cfg.bufLen + 3) (.requester p)) s =
      .next (((((s.withBusy true).withWbuf (encodeSlots s.cfg s.pix s.wbuf s.cfg.bufLen)).setCompare 0).setCur p
        Cur.ready).withXfer { active := true, pos := 0 }) := by
  have hp : p < s.cur.length := lt_length_of_stage (by simp [hs])
  have hgrant : runMove (.requester p) s = .next ((s.withBusy true).setCur p (encodingCur s.cfg 0)) := by
    rw [encodingCur_unfinished (bufLen_pos hc)]
    exact requesterStep_granted hs hb
  have hencode := runMoves_encode (s := s.withBusy true) hp (Nat.le_refl s.cfg.bufLen)
  have hmoves : List.replicate (s.cfg.bufLen + 3) (Move.requester p) =
      .requester p :: (List.replicate s.cfg.bufLen (.requester p) ++ [.requester p, .requester p]) := by
    rw [List.replicate_succ, List.replicate_add]
    rfl
  rw [State.withBusy_cfg, State.withBusy_pix, State.withBusy_wbuf, encodingCur_finished] at hencode
  rw [hmoves, runMoves_cons _ hgrant, runMoves_append _ hencode]
  exact runMoves_zeroArm
    (s := (s.withBusy true).withWbuf (encodeSlots s.cfg s.pix s.wbuf s.cfg.bufLen)) hp hx s.cfg.bufLen

end

/-! ### The whole transfer (R128, R129, R132) -/

/-- The engine's step once every slot is output (R129). -/
theorem engineStep_completion {s : State} (h : s.transferFinished = true) :
    engineStep s = .next (takeCompletion s.endTransfer) := by
  obtain ⟨hactive, hpos⟩ := (transferFinished_iff s).1 h
  rw [engineStep, if_pos hactive, if_neg (by omega), if_pos hpos, completionStep_of_finished h]

/-- `n` moves of the engine from a fresh transfer trace the slots 0 to `n - 1` in ascending order; the last of
them is the compare value in force. -/
theorem runMoves_slots (s : State) {n : Nat} (hn : n ≤ s.cfg.bufLen) :
    ∃ v, runMoves (List.replicate n .engine) (s.withXfer { active := true, pos := 0 }) =
      .next (((s.withXfer { active := true, pos := n }).withTrace
        (s.trace ++ (List.range n).map s.slotAt)).withCmp v) := by
  induction n with
  | zero => exact ⟨s.cmp, by simp [runMoves]; rfl⟩
  | succ n ih =>
    obtain ⟨v, hv⟩ := ih (Nat.le_of_succ_le hn)
    refine ⟨s.slotAt n, runMoves_replicate_succ hv ?_⟩
    rw [List.range_succ, List.map_append, ← List.append_assoc]
    exact engineStep_slot rfl hn

/-- `BUF_LEN + 1` moves of the engine from a fresh transfer trace the whole buffer and take the completion. -/
theorem runMoves_transfer (s : State) :
    runMoves (List.replicate (s.cfg.bufLen + 1) .engine) (s.withXfer { active := true, pos := 0 }) =
      .next (takeCompletion ((s.withXfer { active := false, pos := s.cfg.bufLen }).withTrace
        (s.trace ++ (List.range s.cfg.bufLen).map s.slotAt))) := by
  obtain ⟨v, hv⟩ := runMoves_slots s (Nat.le_refl s.cfg.bufLen)
  exact runMoves_replicate_succ hv (engineStep_completion ((transferFinished_iff _).2 ⟨rfl, rfl⟩))

/-! ### One undisturbed SHOW (R48, R132) -/

/-- `s` once the waiter `p` has had its whole SHOW, from the grant to the completion, and no other agent moved. -/
def afterShow (s : State) (p : Nat) : State :=
  { s with
    wbuf := encodeSlots s.cfg s.pix s.wbuf s.cfg.bufLen
    busy := false
    cmp := 0
    cur := s.cur.set p Cur.ready
    xfer := { active := false, pos := s.cfg.bufLen }
    trace := s.trace ++ [0] ++ (List.range s.cfg.bufLen).map (fun k => enc s.cfg k s.pix) ++ [0] }

theorem slotAt_afterShow {s : State} (hw : Memory.wf s.wbuf = true) (p : Nat) {k : Nat} (hk : k < s.cfg.bufLen) :
    (afterShow s p).slotAt k = enc s.cfg k s.pix := by
  rw [State.slotAt, afterShow, memRead_encodeSlots _ _ hw, if_pos hk]

/-- The waiter's moves, then the engine's, which output the slots just encoded. -/
theorem runMoves_showThenTransfer {s : State} {p : Nat} (hwf : s.Wf) (hs : (s.curAt p).stage = .wait)
    (hb : s.busy = false) (hx : s.xfer.active = false) :
    runMoves (List.replicate (s.cfg.bufLen + 3) (.requester p) ++ List.replicate (s.cfg.bufLen + 1) .engine) s =
      .next (afterShow s p) := by
  have hvalues : (List.range s.cfg.bufLen).map (afterShow s p).slotAt =
      (List.range s.cfg.bufLen).map fun k => enc s.cfg k s.pix :=
    List.map_congr_left fun k hk => slotAt_afterShow hwf.wbufWf p (List.mem_range.1 hk)
  rw [runMoves_append _ (runMoves_show hwf.cfgOk hs hb hx), afterShow, ← hvalues]
  exact runMoves_transfer ((((s.withBusy true).withWbuf
    (encodeSlots s.cfg s.pix s.wbuf s.cfg.bufLen)).setCompare 0).setCur p Cur.ready)

/-- Settles O36: the agenda's steps are the moves of `runMoves_showThenTransfer`. -/
theorem undisturbedShowTracesTheWaveform : Obligations.UndisturbedShowTracesTheWaveform := by
  intro s p rest hwf hs hb hx ha
  have hp : p < s.cur.length := lt_length_of_stage (by simp [hs])
  have hmoves := runMoves_showThenTransfer (s := s.withAgenda rest) { hwf with } hs hb hx
  have hrun := runSteps_of_agenda hwf.cfgOk (ha.trans (List.append_assoc ..).symm) hmoves
  rw [List.length_append, List.length_replicate, List.length_replicate,
    show s.cfg.bufLen + 3 + (s.cfg.bufLen + 1) = 2 * s.cfg.bufLen + 4 by omega] at hrun
  exact ⟨_, hrun, rfl, rfl, rfl, rfl, rfl, rfl, curAt_setCur_same hp _, fun q hq => curAt_setCur_ne hq _,
    fun _ => slotAt_afterShow hwf.wbufWf p⟩

end Sys2Proof.Proofs
end

section
/-! SUPPORT. Proofs of the statements of spec 30_encoding.md: the fields of a command word, decoding of the canonical
input, the slot order and its slot values, the default pulse constants; with them INIT as CLEAR and SHOW, and the
reserved words. -/

namespace Sys2Proof.Proofs

open Sys2Proof Sys2Proof.Machine

/-! ### The operand fields of a packed word (R60) -/

section
variable (op rsv : BitVec 4) (idx : BitVec 32) (red green blue : Byte)

theorem fieldIdx_packCommand : fieldIdx (packCommand op rsv idx red green blue) = idx := by
  rw [fieldIdx, packCommand, BitVec.extractLsb'_append_eq_of_le (by decide),
    BitVec.extractLsb'_append_eq_of_le (by decide), BitVec.extractLsb'_append_eq_of_le (by decide)]
  exact BitVec.extractLsb'_append_eq_right

theorem fieldRed_packCommand : fieldRed (packCommand op rsv idx red green blue) = red := by
  rw [fieldRed, packCommand, BitVec.extractLsb'_append_eq_of_le (by decide),
    BitVec.extractLsb'_append_eq_of_le (by decide)]
  exact BitVec.extractLsb'_append_eq_right

theorem fieldGreen_packCommand : fieldGreen (packCommand op rsv idx red green blue) = green := by
  rw [fieldGreen, packCommand, BitVec.extractLsb'_append_eq_of_le (by decide)]
  exact BitVec.extractLsb'_append_eq_right

theorem fieldBlue_packCommand : fieldBlue (packCommand op rsv idx red green blue) = blue :=
  BitVec.extractLsb'_append_eq_right

end

/-! ### The decoder, opcode by opcode (R61, R64) -/

section
variable (p : Nat) {w : CommandWord}

theorem decodeCommand_init (h : fieldOp w = 0x1#4) : decodeCommand p w = .init p := by
  simp [decodeCommand, h]

theorem decodeCommand_setPixel (h : fieldOp w = 0x2#4) :
    decodeCommand p w = .setPixel p (fieldIdx w) (fieldRed w) (fieldGreen w) (fieldBlue w) := by
  simp [decodeCommand, h]

theorem decodeCommand_clear (h : fieldOp w = 0x3#4) : decodeCommand p w = .clear p := by
  simp [decodeCommand, h]

theorem decodeCommand_showCmd (h : fieldOp w = 0x4#4) : decodeCommand p w = .showCmd p := by
  simp [decodeCommand, h]

theorem opAssigned_iff (op : BitVec 4) :
    opAssigned op = true ↔ op = 0x1#4 ∨ op = 0x2#4 ∨ op = 0x3#4 ∨ op = 0x4#4 := by
  simp [opAssigned, or_assoc]

theorem decodeCommand_reserved (h : opAssigned (fieldOp w) = false) :
    decodeCommand p w = .reserved p (fieldOp w) := by
  rw [← Bool.not_eq_true, opAssigned_iff] at h
  simp only [not_or] at h
  obtain ⟨h1, h2, h3, h4⟩ := h
  rw [decodeCommand, if_neg h1, if_neg h2, if_neg h3, if_neg h4]

end

/-- The operands of SET_PIXEL survive the packing. -/
theorem decodeCommand_packCommand_setPixel (p : Nat) (idx : BitVec 32) (red green blue : Byte) :
    decodeCommand p (packCommand 0x2#4 0 idx red green blue) = .setPixel p idx red green blue := by
  rw [decodeCommand_setPixel p (Laws.fieldOp_packCommand ..), fieldIdx_packCommand, fieldRed_packCommand,
    fieldGreen_packCommand, fieldBlue_packCommand]

theorem fieldOp_packPlain (op : BitVec 4) : fieldOp (packPlain op) = op :=
  Laws.fieldOp_packCommand ..

theorem decodeCommand_packPlain_reserved (p : Nat) {op : BitVec 4} (h : opAssigned op = false) :
    decodeCommand p (packPlain op) = .reserved p op := by
  rw [decodeCommand_reserved p (by rwa [fieldOp_packPlain]), fieldOp_packPlain]

/-- Settles O1, one case per row of the opcode map: the port passes its bound, and the canonical word carries the
row's opcode and, for SET_PIXEL, its operands. -/
theorem decodeOfEncode : Obligations.DecodeOfEncode := by
  intro c i hi
  cases i with
  | init p =>
    rw [encode, decode_command_of_port (of_decide_eq_true hi), decodeCommand_init p (fieldOp_packPlain _)]
  | setPixel p idx red green blue =>
    rw [encode, decode_command_of_port (of_decide_eq_true hi), decodeCommand_packCommand_setPixel]
  | clear p =>
    rw [encode, decode_command_of_port (of_decide_eq_true hi), decodeCommand_clear p (fieldOp_packPlain _)]
  | showCmd p =>
    rw [encode, decode_command_of_port (of_decide_eq_true hi), decodeCommand_showCmd p (fieldOp_packPlain _)]
  | reserved p op =>
    have hport : p < c.nReq ∧ opAssigned op = false := by simpa [Instr.wf] using hi
    rw [encode, decode_command_of_port hport.1, decodeCommand_packPlain_reserved p hport.2]
  | complete id => exact decode_event_of_width (of_decide_eq_true hi)

/-- Settles O4: only the SET_PIXEL branch of the decoder reads a field besides the opcode. -/
theorem ignoredFieldsDoNotMatter : Obligations.IgnoredFieldsDoNotMatter := by
  intro p w w' hop hfields
  by_cases h2 : fieldOp w = 0x2#4
  · obtain ⟨hidx, hred, hgreen, hblue⟩ := hfields h2
    rw [decodeCommand_setPixel p h2, decodeCommand_setPixel p (hop.symm.trans h2), hidx, hred, hgreen, hblue]
  · simp only [decodeCommand, ← hop, if_neg h2]

/-! ### The fields as quotients (R60, R73) -/

/-- A field of `len` bits from bit `start` on is the quotient by `2 ^ start`, cut to its width. -/
theorem extractLsb'_eq_ofNat_div {n : Nat} (w : BitVec n) (start len : Nat) :
    w.extractLsb' start len = BitVec.ofNat len (w.toNat / 2 ^ start) := by
  rw [BitVec.extractLsb', Nat.shiftRight_eq_div_pow]

/-- The topmost field needs no cut. -/
theorem fieldOp_toNat (w : CommandWord) : (fieldOp w).toNat = w.toNat / 2 ^ 60 := by
  rw [fieldOp, extractLsb'_eq_ofNat_div, BitVec.toNat_ofNat]
  exact Nat.mod_eq_of_lt (by omega)

theorem fieldOp_eq_iff (w : CommandWord) (op : BitVec 4) : fieldOp w = op ↔ w.toNat / 2 ^ 60 = op.toNat := by
  rw [← fieldOp_toNat, BitVec.toNat_inj]

/-- A word whose four top bits name no command decodes to RESERVED (R64). -/
theorem decodeCommand_of_reserved_quotient (p : Nat) {w : CommandWord} (h1 : w.toNat / 2 ^ 60 ≠ 1)
    (h2 : w.toNat / 2 ^ 60 ≠ 2) (h3 : w.toNat / 2 ^ 60 ≠ 3) (h4 : w.toNat / 2 ^ 60 ≠ 4) :
    decodeCommand p w = .reserved p (fieldOp w) := by
  refine decodeCommand_reserved p ?_
  rw [← Bool.not_eq_true, opAssigned_iff]
  simp only [fieldOp_eq_iff]
  rintro (h | h | h | h)
  exacts [h1 h, h2 h, h3 h, h4 h]

/-- Settles O2, one case per value of the four top bits. -/
theorem everyWordDecodes : Obligations.EveryWordDecodes := by
  intro c p w hp
  rw [decode_command_of_port hp]
  split_ifs with h1 h2 h3 h4
  · rw [decodeCommand_init p ((fieldOp_eq_iff w _).2 h1)]
  · rw [decodeCommand_setPixel p ((fieldOp_eq_iff w _).2 h2), fieldIdx, fieldRed, fieldGreen, fieldBlue]
    simp only [extractLsb'_eq_ofNat_div, pow_zero, Nat.div_one]
  · rw [decodeCommand_clear p ((fieldOp_eq_iff w _).2 h3)]
  · rw [decodeCommand_showCmd p ((fieldOp_eq_iff w _).2 h4)]
  · rw [decodeCommand_of_reserved_quotient p h1 h2 h3 h4, fieldOp, extractLsb'_eq_ofNat_div]

/-- Settles O11: the opcode is the word's own. -/
theorem reservedWordDoesNothing : Obligations.ReservedWordDoesNothing := by
  intro s p w hp hs h1 h2 h3 h4
  refine ⟨fieldOp w, ?_, ?_⟩
  · rw [decode_command_of_port hp, decodeCommand_of_reserved_quotient p h1 h2 h3 h4]
  · rw [exec_reserved]
    exact onIdlePort_of_idle hp hs _

/-! ### INIT is CLEAR and then SHOW (R66) -/

theorem onIdlePort_next_iff {p : Nat} {s t : State} {effect : State → State} :
    onIdlePort p s effect = .next t ↔ p < s.cfg.nReq ∧ (s.curAt p).stage = .idle ∧ t = effect s := by
  refine ⟨onIdlePort_next, ?_⟩
  rintro ⟨hp, hs, rfl⟩
  exact onIdlePort_of_idle hp hs effect

/-- Settles O17: CLEAR leaves the port as idle as it was, so SHOW is accepted after it exactly when INIT is. -/
theorem initIsClearThenShow : Obligations.InitIsClearThenShow := by
  intro s t p
  simp only [exec_init, exec_clear, exec_showCmd, onIdlePort_next_iff]
  constructor
  · rintro ⟨hp, hs, rfl⟩
    exact ⟨s.zeroPixels, ⟨hp, hs, rfl⟩, hp, hs, rfl⟩
  · rintro ⟨_, ⟨hp, hs, rfl⟩, -, -, rfl⟩
    exact ⟨hp, hs, rfl⟩

/-! ### The slot order and its inverse (R69) -/

theorem slotLed_lt {c : Config} {k : Nat} (hk : k < c.dataSlots) : slotLed k < c.ledCount :=
  Nat.div_lt_of_lt_mul hk

theorem slotChan_lt (k : Nat) : slotChan k < 3 := by
  unfold slotChan
  omega

theorem slotBit_lt (k : Nat) : slotBit k < 8 := by
  unfold slotBit
  omega

theorem slotIndex_of_slot (k : Nat) : slotIndex (slotLed k) (slotChan k) (slotBit k) = k := by
  unfold slotIndex slotLed slotChan slotBit
  omega

section
variable {i ch b : Nat}

theorem slotIndex_lt {c : Config} (hi : i < c.ledCount) (hch : ch < 3) : slotIndex i ch b < c.dataSlots := by
  unfold slotIndex Config.dataSlots
  omega

theorem slotLed_slotIndex (hch : ch < 3) : slotLed (slotIndex i ch b) = i := by
  unfold slotLed slotIndex
  omega

theorem slotChan_slotIndex (hch : ch < 3) : slotChan (slotIndex i ch b) = ch := by
  unfold slotChan slotIndex
  omega

theorem slotBit_slotIndex (hb : b < 8) : slotBit (slotIndex i ch b) = b := by
  unfold slotBit slotIndex
  omega

end

/-! ### The slot values (R68, R90) -/

/-- A data slot is the pulse of its own bit. -/
theorem enc_eq_pulse_getLsbD {c : Config} {k : Nat} (hk : k < c.dataSlots) (P : List Pixel) :
    enc c k P = pulse c (((P.getD (slotLed k) Pixel.off).ch (slotChan k)).getLsbD (slotBit k)) := by
  rw [enc_data hk, bitOf_eq_getLsbD]

theorem enc_slotIndex {c : Config} {i ch b : Nat} (hi : i < c.ledCount) (hch : ch < 3) (hb : b < 8)
    (P : List Pixel) :
    enc c (slotIndex i ch b) P = pulse c (((P.getD i Pixel.off).ch ch).getLsbD b) := by
  rw [enc_eq_pulse_getLsbD (slotIndex_lt hi hch), slotLed_slotIndex hch, slotChan_slotIndex hch,
    slotBit_slotIndex hb]

/-- Settles O30: `enc_slotIndex` reads a data slot at the LED, channel and bit that its index stands for. -/
theorem encFollowsTheSlotOrder : Obligations.EncFollowsTheSlotOrder :=
  fun _ P =>
    ⟨fun k hk => ⟨slotLed_lt hk, slotChan_lt k, slotBit_lt k, slotIndex_of_slot k⟩,
      fun _ _ _ hi hch hb => ⟨slotIndex_lt hi hch, enc_slotIndex hi hch hb P⟩,
      fun _ hk => enc_reset hk P⟩

theorem pulse_eq_long_iff {c : Config} (h : c.cmpShort < c.cmpLong) (bit : Bool) :
    pulse c bit = c.cmpLong ↔ bit = true := by
  cases bit <;> simp [pulse, Nat.ne_of_lt h]

theorem pulse_eq_short_iff {c : Config} (h : c.cmpShort < c.cmpLong) (bit : Bool) :
    pulse c bit = c.cmpShort ↔ bit = false := by
  cases bit <;> simp [pulse, Nat.ne_of_gt h]

theorem pulse_ne_zero {c : Config} (h0 : 0 < c.cmpShort) (h : c.cmpShort < c.cmpLong) (bit : Bool) :
    pulse c bit ≠ 0 := by
  rcases pulse_cases c bit with hp | hp <;> omega

/-- The reset region is where `enc` is 0: no pulse is. -/
theorem enc_eq_zero_iff {c : Config} (h0 : 0 < c.cmpShort) (h : c.cmpShort < c.cmpLong) (k : Nat)
    (P : List Pixel) : enc c k P = 0 ↔ c.dataSlots ≤ k := by
  refine ⟨fun hz => ?_, fun hk => enc_reset hk P⟩
  by_contra hk
  rw [enc_eq_pulse_getLsbD (Nat.lt_of_not_le hk)] at hz
  exact pulse_ne_zero h0 h _ hz

/-- Settles O33: the two pulses differ from each other and from 0, and a data slot is the pulse of its bit. -/
theorem slotValuesDecodeBack : Obligations.SlotValuesDecodeBack := by
  intro c P hc
  obtain ⟨-, -, -, -, hshort, hlong, -⟩ := (Config.wf_iff c).1 hc
  refine ⟨by omega, by omega, by omega, fun k => ⟨enc_eq_zero_iff hshort hlong k P, fun hk => ?_⟩⟩
  rw [enc_eq_pulse_getLsbD hk]
  exact ⟨pulse_eq_long_iff hlong _, pulse_eq_short_iff hlong _⟩

/-! ### The default pulse constants (R70) -/

theorem defaultShort_pos {period : Nat} (h : 4 ≤ period) : 1 ≤ Config.defaultShort period := by
  unfold Config.defaultShort
  omega

theorem defaultShort_lt_defaultLong {period : Nat} (h : 4 ≤ period) :
    Config.defaultShort period < Config.defaultLong period := by
  unfold Config.defaultShort Config.defaultLong
  omega

theorem defaultLong_lt {period : Nat} (h : 4 ≤ period) : Config.defaultLong period < period := by
  unfold Config.defaultLong
  omega

/-- Settles O57: the constants are the floors by definition, each bound is one lemma. -/
theorem defaultPulseConstants : Obligations.DefaultPulseConstants :=
  fun _ _ h => ⟨rfl, rfl, defaultShort_pos h, defaultShort_lt_defaultLong h, defaultLong_lt h⟩

end Sys2Proof.Proofs
end

section
/-! SUPPORT. Proofs of the statements of spec 40_pixel_store.md: what SET_PIXEL, CLEAR, RESERVED and the zeroing of
INIT do to the Pixel Store, what they leave unchanged, and the slot values a SET_PIXEL makes. -/

namespace Sys2Proof.Proofs

open Sys2Proof Sys2Proof.Machine

/-! ### The write of SET_PIXEL (R81) -/

theorem length_pix_storePixel (s : State) (idx : BitVec 32) (px : Pixel) :
    (s.storePixel idx px).pix.length = s.pix.length := by
  by_cases hi : idx.toNat < s.cfg.ledCount
  · rw [storePixel_inRange hi, State.withPix_pix, List.length_set]
  · rw [storePixel_outOfRange hi]

theorem slotAt_storePixel (s : State) (idx : BitVec 32) (px : Pixel) (k : Nat) :
    (s.storePixel idx px).slotAt k = s.slotAt k := by
  rw [storePixel_frame]
  rfl

section
variable {s : State} {idx : BitVec 32}

theorem pixAt_storePixel_same (hlen : s.pix.length = s.cfg.ledCount) (hi : idx.toNat < s.cfg.ledCount)
    (px : Pixel) : (s.storePixel idx px).pixAt idx.toNat = px := by
  rw [storePixel_inRange hi, pixAt_set, if_pos ⟨rfl, hlen ▸ hi⟩]

theorem pixAt_storePixel_ne {j : Nat} (hj : j ≠ idx.toNat) (px : Pixel) :
    (s.storePixel idx px).pixAt j = s.pixAt j := by
  by_cases hi : idx.toNat < s.cfg.ledCount
  · rw [storePixel_inRange hi, pixAt_set, if_neg fun h => hj h.1]
  · rw [storePixel_outOfRange hi]

/-- After the write, the slots of the LED it names hold the pulses of the stored entry. -/
theorem enc_storePixel (hlen : s.pix.length = s.cfg.ledCount) (hi : idx.toNat < s.cfg.ledCount) {ch b : Nat}
    (hch : ch < 3) (hb : b < 8) (px : Pixel) :
    enc s.cfg (slotIndex idx.toNat ch b) (s.storePixel idx px).pix = pulse s.cfg ((px.ch ch).getLsbD b) := by
  have hentry : (s.storePixel idx px).pix.getD idx.toNat Pixel.off = px := pixAt_storePixel_same hlen hi px
  rw [enc_slotIndex hi hch hb, hentry]

end

/-- Settles O9: the accepted command is the one write `storePixel`. -/
theorem setPixelStoresInChannelOrder : Obligations.SetPixelStoresInChannelOrder := by
  intro s p idx r g b hp hs hlen
  refine ⟨s.storePixel idx (pixelOfInput r g b), ?_, fun hi => ⟨?_, ?_, ?_, ?_⟩, fun hi => ?_⟩
  · rw [exec_setPixel]
    exact onIdlePort_of_idle hp hs _
  · exact storePixel_frame s idx _
  · rw [length_pix_storePixel, hlen]
  · exact pixAt_storePixel_same hlen hi _
  · exact fun j hj => pixAt_storePixel_ne hj _
  · exact storePixel_outOfRange (Nat.not_lt.2 hi) _

/-! ### The frame of the store's commands (R80) -/

/-- Settles O12: each accepted command is one update, of the Pixel Store or of nothing. -/
theorem pixelStoreCommandsFrame : Obligations.PixelStoreCommandsFrame := by
  intro s t p idx r g b op
  refine ⟨fun h => ?_, fun h => ?_, fun h => ?_⟩
  · rw [exec_setPixel] at h
    obtain ⟨-, -, rfl⟩ := onIdlePort_next h
    exact ⟨storePixel_frame s idx _, fun j hj => pixAt_storePixel_ne hj _, slotAt_storePixel s idx _⟩
  · rw [exec_clear] at h
    obtain ⟨-, -, rfl⟩ := onIdlePort_next h
    exact ⟨rfl, fun _ => rfl⟩
  · rw [exec_reserved] at h
    exact (onIdlePort_next h).2.2

/-! ### The slot values of a stored pixel (R95) -/

/-- Channel `ch` of LED `i` takes the eight slots from `24 * i + 8 * ch` on, bit 7 first (R69). -/
theorem slotIndex_bitReversed (i ch : Nat) {j : Nat} (hj : j < 8) :
    slotIndex i ch (7 - j) = 24 * i + 8 * ch + j := by
  unfold slotIndex
  omega

/-- Settles O34: the three placements are `enc_storePixel` at the channels green, red and blue. -/
theorem setPixelPlacesItsBits : Obligations.SetPixelPlacesItsBits := by
  intro s t p idx r g b j hlen hi hj h
  rw [exec_setPixel] at h
  obtain ⟨-, -, rfl⟩ := onIdlePort_next h
  have hchan : ∀ ch < 3, enc s.cfg (24 * idx.toNat + 8 * ch + j) (s.storePixel idx (pixelOfInput r g b)).pix =
      pulse s.cfg (((pixelOfInput r g b).ch ch).getLsbD (7 - j)) := fun ch hch => by
    rw [← slotIndex_bitReversed _ ch hj]
    exact enc_storePixel hlen hi hch (by omega) _
  rw [storePixel_cfg]
  exact ⟨hchan 0 (by decide), hchan 1 (by decide), hchan 2 (by decide)⟩

/-! ### The zeroing of CLEAR and INIT (R82, R83) -/

/-- Settles O10: the accepted command is `zeroPixels`. -/
theorem clearZeroesTheStore : Obligations.ClearZeroesTheStore := by
  intro s p hp hs
  rw [exec_clear]
  exact onIdlePort_of_idle hp hs _

/-- Settles O14: the accepted command is `zeroPixels`, then the issue step of a SHOW. -/
theorem initZeroesAndEntersWait : Obligations.InitZeroesAndEntersWait := by
  intro s p hp hs hlen
  refine ⟨s.zeroPixels.enterWait p, ?_, rfl, rfl, ?_, fun q hq => ?_⟩
  · rw [exec_init]
    exact onIdlePort_of_idle hp hs _
  · exact curAt_setCur_same (s := s.zeroPixels) (hlen ▸ hp) _
  · exact curAt_setCur_ne (s := s.zeroPixels) hq _

end Sys2Proof.Proofs
end

section
/-! SUPPORT. Proofs of the statements of spec 41_waveform_encoder.md: the ENC step, the waveforms of the all-off and
the all-on store, and one encode that no other agent disturbs. -/

namespace Sys2Proof.Proofs

open Sys2Proof Sys2Proof.Machine

/-! ### The ENC step (R92, R104) -/

/-- Settles O22: the step is `requesterStep_enc`, one write of slot `k` and one update of the requester's record. -/
theorem encStepWritesOneSlot : Obligations.EncStepWritesOneSlot := by
  intro s p hw hs hk
  have hp : p < s.cur.length := lt_length_of_stage (by simp [hs])
  have hsame := curAt_setCur_same (s := s.writeSlot (s.curAt p).k (enc s.cfg (s.curAt p).k s.pix)) hp
    (afterSlot s.cfg (s.curAt p).k)
  refine ⟨_, requesterStep_enc hs hk, rfl, ?slot, ?others, ?next, ?last, ?more, ?records⟩
  case slot => exact slotAt_writeSlot_same hw _ _
  case others => exact fun k hne => slotAt_writeSlot_ne hne _
  case next => rw [hsame, afterSlot_k]
  case last => exact fun hlast => by rw [hsame, afterSlot_last hlast]
  case more => exact fun hmore => by rw [hsame, afterSlot_more hmore]
  case records => exact fun q hq => curAt_setCur_ne (s := s.writeSlot _ _) hq _

/-! ### The waveform of a store whose entries are all the same (R96) -/

/-- Every data slot of a store filled with `px` is the pulse of its bit of `px`. -/
theorem enc_replicate {c : Config} {k : Nat} (hk : k < c.dataSlots) (px : Pixel) :
    enc c k (List.replicate c.ledCount px) = pulse c ((px.ch (slotChan k)).getLsbD (slotBit k)) := by
  rw [enc_eq_pulse_getLsbD hk, List.getD_replicate _ (slotLed_lt hk)]

theorem ch_of_equal_channels (v : Byte) (ch : Nat) :
    Pixel.ch { green := v, red := v, blue := v } ch = v := by
  unfold Pixel.ch
  split <;> rfl

/-- Settles O32: by `enc_replicate` a data slot is the pulse of a bit of `0x00`, or of `0xFF`. -/
theorem allOffAndAllOnWaveforms : Obligations.AllOffAndAllOnWaveforms := by
  intro c k
  refine ⟨fun hk => ⟨?off, ?on⟩, fun hk => ⟨enc_reset hk _, enc_reset hk _⟩⟩
  case off =>
    have hbit : (0 : Byte).getLsbD (slotBit k) = false := BitVec.getLsbD_zero
    rw [enc_replicate hk, ch_of_equal_channels, hbit]
    rfl
  case on =>
    have hbit : (0xFF : Byte).getLsbD (slotBit k) = true :=
      (BitVec.getLsbD_allOnes (v := 8)).trans (decide_eq_true (slotBit_lt k))
    rw [enc_replicate hk, ch_of_equal_channels, hbit]
    rfl

/-! ### One undisturbed encode (R91, R93, R94) -/

theorem setCur_curAt {s : State} {p : Nat} (hp : p < s.cur.length) : s.setCur p (s.curAt p) = s := by
  have hset : s.cur.set p (s.curAt p) = s.cur := by
    rw [State.curAt, List.getD_eq_getElem _ _ hp, List.set_getElem_self]
  exact congrArg s.withCur hset

/-- Settles O35: the agenda's steps are the moves of `runMoves_encode`, and the buffer they leave is `encodeSlots`. -/
theorem undisturbedEncodeFillsTheBuffer : Obligations.UndisturbedEncodeFillsTheBuffer := by
  intro s p rest hwf hcur ha
  have hp : p < s.cur.length := lt_length_of_stage (by simp [hcur])
  have hstart : (s.withAgenda rest).setCur p (encodingCur s.cfg 0) = s.withAgenda rest := by
    rw [encodingCur_unfinished (bufLen_pos hwf.cfgOk), ← hcur]
    exact setCur_curAt (s := s.withAgenda rest) hp
  have hmoves := runMoves_encode (s := s.withAgenda rest) hp (Nat.le_refl s.cfg.bufLen)
  rw [State.withAgenda_cfg, hstart, encodingCur_finished] at hmoves
  have hrun := runSteps_of_agenda hwf.cfgOk ha hmoves
  rw [List.length_replicate] at hrun
  have hread := memRead_encodeSlots s.cfg s.pix hwf.wbufWf s.cfg.bufLen
  refine ⟨_, hrun, rfl, ?filled, ?beyond, curAt_setCur_same hp _, fun q hq => curAt_setCur_ne hq _⟩
  case filled => exact fun k hk => (hread k).trans (if_pos hk)
  case beyond => exact fun k hk => (hread k).trans (if_neg (Nat.not_lt.2 hk))

end Sys2Proof.Proofs
end

section
/-! SUPPORT. Proofs of the statements of spec 42_transmission_controller.md about one step: what every step keeps of
`BUSY` and of the line, the issue step, the completion, and the steps of a requester. -/

namespace Sys2Proof.Proofs

open Sys2Proof Sys2Proof.Machine

/-! ### Transmitting is accounted for (R100) -/

section
variable {s : State} {p : Nat}

/-- Writing the record of a requester that owns nothing leaves the owner there is. -/
theorem busyAccounted_setCur (h : s.BusyAccounted) (hp : s.owns p = false) (c : Cur) :
    (s.setCur p c).BusyAccounted := by
  intro hb
  refine (h hb).imp_left fun ⟨q, hq⟩ => ⟨q, ?_⟩
  have hne : q ≠ p := by rintro rfl; simp [hp] at hq
  rwa [owns_setCur_ne hne]

/-- A requester with a command in progress that is given an owner's record owns the transfer. -/
theorem owns_setCur_same (hs : (s.curAt p).stage ≠ .idle) {c : Cur} (hc : c.stage.owning = true) :
    (s.setCur p c).owns p = true := by
  rw [State.owns, curAt_setCur_same (lt_length_of_stage hs), hc]

theorem afterSlot_owning (c : Config) (k : Nat) : (afterSlot c k).stage.owning = true := by
  unfold afterSlot
  split <;> rfl

end

/-- After GRANT, ENC and ZERO there is an owner, after ARM a transfer in flight; a completion and RESET leave
Idle. -/
theorem caused_busyAccounted {m : Move} {u t : State} (h : Caused m u t) (hu : u.BusyAccounted) :
    t.BusyAccounted := by
  cases h with
  | init _ hs => exact busyAccounted_setCur (s := u.zeroPixels) hu (owns_of_idle hs) _
  | setPixel => rw [storePixel_frame]; exact hu
  | showCmd _ hs => exact busyAccounted_setCur hu (owns_of_idle hs) _
  | delivered | completion | spurious | reset => nofun
  | granted hs =>
    exact fun _ => .inl ⟨_, owns_setCur_same (s := u.withBusy true) (ne_of_eq_of_ne hs nofun) rfl⟩
  | encoded hs =>
    exact fun _ => .inl ⟨_, owns_setCur_same (s := u.writeSlot _ _) (ne_of_eq_of_ne hs nofun) (afterSlot_owning ..)⟩
  | zeroed hs => exact fun _ => .inl ⟨_, owns_setCur_same (s := u.setCompare 0) (ne_of_eq_of_ne hs nofun) rfl⟩
  | armed => exact fun _ => .inr rfl
  | clear | reserved | foreign | nothingToDo | waiting | encodeHeld | engineQuiet | engineHeld | slot => exact hu

theorem busyAccounted_takeUp {s : State} (h : s.BusyAccounted) : (takeUp s).BusyAccounted := by
  rw [takeUp_eq]
  exact h

/-- Settles O40, by `caused_busyAccounted`; neither the protocol nor the environment's contract is needed. -/
theorem stepKeepsBusyAccounted : Obligations.StepKeepsBusyAccounted :=
  fun _ _ _ _ hs _ h => caused_busyAccounted (step_next h).2 (busyAccounted_takeUp hs)

/-! ### The line is low while Idle (R111, R156) -/

theorem idleLow_of_busy {s : State} (h : s.busy = true) : s.IdleLow :=
  fun hb => absurd h (by simp [hb])

/-- A compare value forced to 0 is the last one traced. -/
theorem idleLow_of_trace_append {s : State} {tr : List Nat} (h : s.trace = tr ++ [0]) : s.IdleLow := by
  intro _ v hv
  simpa [h] using hv.symm

/-- What else is traced comes from a SLOT step, and a transfer in flight keeps `BUSY` (R34 item 3). -/
theorem caused_idleLow {m : Move} {u t : State} (h : Caused m u t) (hp : u.Protocol) (hu : u.IdleLow) :
    t.IdleLow := by
  cases h with
  | setPixel => rw [storePixel_frame]; exact hu
  | delivered | completion | spurious | zeroed => exact idleLow_of_trace_append rfl
  | granted => exact idleLow_of_busy rfl
  | slot ha => exact idleLow_of_busy (hp.activeBusy ha).1
  | reset => nofun
  | _ => exact hu

theorem idleLow_takeUp {s : State} (h : s.IdleLow) : (takeUp s).IdleLow := by
  rw [takeUp_eq]
  exact h

/-- Settles O42, by `caused_idleLow`. -/
theorem stepKeepsIdleLow : Obligations.StepKeepsIdleLow :=
  fun _ _ hp hs h => caused_idleLow (step_next h).2 (protocol_takeUp hp) (idleLow_takeUp hs)

/-! ### The issue step, and when it is refused (R101, U16) -/

/-- Settles O13: the accepted command is one update of the requester's record. -/
theorem showEntersWait : Obligations.ShowEntersWait :=
  fun s p hp hs hlen => ⟨s.enterWait p, (exec_showCmd p s).trans (onIdlePort_of_idle hp hs _), rfl,
    curAt_setCur_same (hlen ▸ hp) _, fun _ hq => curAt_setCur_ne hq _⟩

/-- The two refusals of the issue step, whatever the command's effect. -/
theorem onIdlePort_refused (p : Nat) (s : State) (effect : State → State) :
    (p < s.cfg.nReq → (s.curAt p).stage ≠ .idle → onIdlePort p s effect = .refused .portInProgress) ∧
    (s.cfg.nReq ≤ p → onIdlePort p s effect = .refused .noSuchPort) :=
  ⟨fun hp hs => onIdlePort_of_inProgress hp hs effect, fun hp => onIdlePort_of_noPort (Nat.not_lt.2 hp) effect⟩

/-- Settles O18: every command is an issue step, and that refuses whatever the effect. -/
theorem commandNeedsAnIdlePort : Obligations.CommandNeedsAnIdlePort := by
  rintro s p idx r g b op i (rfl | rfl | rfl | rfl | rfl)
  · rw [exec_init]; exact onIdlePort_refused ..
  · rw [exec_setPixel]; exact onIdlePort_refused ..
  · rw [exec_clear]; exact onIdlePort_refused ..
  · rw [exec_showCmd]; exact onIdlePort_refused ..
  · rw [exec_reserved]; exact onIdlePort_refused ..

/-! ### The completion (R111, R112, R129) -/

/-- Settles O15. -/
theorem completeForcesLowAndClearsBusy : Obligations.CompleteForcesLowAndClearsBusy :=
  fun _ _ => ⟨execComplete_own, execComplete_foreign⟩

/-- This core's event word ends the transfer, if that is finished, and then is COMPLETE(`TIM_ID`). -/
theorem arrive_timId {u : State} (hid : u.cfg.timId < 2 ^ u.cfg.idW) :
    arrive (.event u.cfg.timId) u = completionStep u :=
  arrive_of_decode (decode_event_of_width hid)

theorem completionStep_of_unfinished {u : State} (h : u.transferFinished = false) :
    completionStep u = .next (takeCompletion u) := by
  rw [completionStep, endFinishedTransfer_unfinished _ h, execComplete_own rfl]

/-- Settles O27: the engine's step and the event word are both `completionStep`. -/
theorem completionStepEndsTheTransfer : Obligations.CompletionStepEndsTheTransfer := by
  refine fun s => ⟨fun ha hpos => ?_, fun ha => by simp [engineStep, ha]⟩
  have hf : s.transferFinished = true := (transferFinished_iff s).2 ⟨ha, hpos⟩
  have hengine := engineStep_completion hf
  exact ⟨hengine, fun hid => by rw [arrive_timId hid, completionStep_of_finished hf, hengine]⟩

/-- Settles O29: the event ends no transfer, since none is finished, and is COMPLETE(`TIM_ID`). -/
theorem spuriousCompletionActsAsWritten : Obligations.SpuriousCompletionActsAsWritten := by
  intro s rest hc ha hunfin
  obtain ⟨-, -, -, -, -, -, -, -, hid⟩ := (Config.wf_iff s.cfg).1 hc
  have hf : s.transferFinished = false := by rwa [← Bool.not_eq_true, transferFinished_iff]
  rw [step_of_agenda_cons hc ha]
  exact (arrive_timId (u := s.withAgenda rest) hid).trans (completionStep_of_unfinished (u := s.withAgenda rest) hf)

/-- A transfer is ended by the completion, once it has output every slot, and by RESET (R114). -/
theorem caused_ends_transfer {m : Move} {u t : State} (h : Caused m u t) (hu : u.xfer.active = true)
    (ht : t.xfer.active = false) :
    m = .reset ∨ (u.xfer.pos = u.cfg.bufLen ∧ (m = .engine ∨ m = .input (.event u.cfg.timId))) := by
  have hkept : t.xfer.active = u.xfer.active → False := by simp [hu, ht]
  cases h with
  | setPixel => exact absurd (by rw [storePixel_frame, State.withPix_xfer]) hkept
  | delivered hf => exact .inr ⟨((transferFinished_iff u).1 hf).2, .inr rfl⟩
  | completion hf => exact .inr ⟨((transferFinished_iff u).1 hf).2, .inl rfl⟩
  | armed => cases ht
  | reset => exact .inl rfl
  | _ => exact absurd rfl hkept

/-- Settles O52, by `caused_ends_transfer`. -/
theorem transferRunsToCompletion : Obligations.TransferRunsToCompletion := by
  intro s t h hs ht
  simpa using caused_ends_transfer (step_next h).2 (takeUp_xfer s ▸ hs) ht

/-! ### The steps of a requester (R102 to R107) -/

/-- Settles O20: the grant is one test-and-set, and a waiter holds once `BUSY` is set. -/
theorem grantIsExclusive : Obligations.GrantIsExclusive := by
  refine fun s p hs => ⟨requesterStep_waiting hs, fun hb => ?_⟩
  have hp : p < s.cur.length := lt_length_of_stage (ne_of_eq_of_ne hs nofun)
  have hothers : ∀ q, q ≠ p →
      ((s.withBusy true).setCur p { stage := .enc, k := 0 }).curAt q = s.curAt q :=
    fun q hq => curAt_setCur_ne (s := s.withBusy true) hq _
  refine ⟨_, requesterStep_granted hs hb, rfl, curAt_setCur_same (s := s.withBusy true) hp _, hothers,
    fun q hq hw => requesterStep_waiting ?_ rfl⟩
  rw [hothers q hq, hw]

/-- Settles O21: the agenda that names the waiter. -/
theorem anyWaiterMayBeGranted : Obligations.AnyWaiterMayBeGranted := by
  intro s p hc hb hs
  have hp : p < s.cur.length := lt_length_of_stage (ne_of_eq_of_ne hs nofun)
  refine ⟨[.requester p], ((s.withAgenda []).withBusy true).setCur p { stage := .enc, k := 0 }, ?_, rfl, ?_⟩
  · exact (step_of_agenda_cons (s := s.withAgenda [.requester p]) hc rfl).trans
      (requesterStep_granted (s := s.withAgenda []) hs hb)
  · rw [curAt_setCur_same (s := (s.withAgenda []).withBusy true) hp]

/-- Settles O23: the step is `requesterStep_zero`. -/
theorem zeroStepForcesLow : Obligations.ZeroStepForcesLow := by
  intro s p hs
  have hp : p < s.cur.length := lt_length_of_stage (ne_of_eq_of_ne hs nofun)
  have hsame := curAt_setCur_same (s := s.setCompare 0) hp { stage := .arm, k := (s.curAt p).k }
  exact ⟨_, requesterStep_zero hs, rfl, by rw [hsame], by rw [hsame],
    fun q hq => curAt_setCur_ne (s := s.setCompare 0) hq _⟩

/-- Settles O24: the step is `requesterStep_arm`. -/
theorem armStepStartsTheTransfer : Obligations.ArmStepStartsTheTransfer := by
  intro s p hs ha
  have hp : p < s.cur.length := lt_length_of_stage (ne_of_eq_of_ne hs nofun)
  exact ⟨_, requesterStep_arm hs ha, rfl, curAt_setCur_same (s := s.withXfer _) hp _,
    fun q hq => curAt_setCur_ne (s := s.withXfer _) hq _⟩

/-- While `BUSY = 1` a requester that owns nothing has nothing to do, or waits (R102). -/
theorem requesterStep_of_notOwner {s : State} {q : Nat} (hb : s.busy = true) (hq : s.owns q = false) :
    requesterStep q s = .next s := by
  cases hs : (s.curAt q).stage with
  | idle => exact requesterStep_idle hs
  | wait => exact requesterStep_waiting hs hb
  | enc | zero | arm => exact absurd (owns_of_stage hs rfl) (by simp [hq])

/-- Settles O54: there is one owner at most, and none while a transfer is in flight (R34). -/
theorem othersHoldWhileTransmitting : Obligations.OthersHoldWhileTransmitting := by
  refine fun s h => ⟨fun p q hp hqp => ?_, fun ha q => ?_⟩
  · exact requesterStep_of_notOwner (h.ownerBusy p hp).1 (Bool.eq_false_iff.2 fun hq => hqp (h.oneOwner q p hq hp))
  · obtain ⟨hb, hnone⟩ := h.activeBusy ha
    exact requesterStep_of_notOwner hb (hnone q)

end Sys2Proof.Proofs
end

section
/-! SUPPORT. Proofs of the statements of spec 42_transmission_controller.md about infinite runs: a transfer that is
never completed (R113), and weak fairness (R110). -/

namespace Sys2Proof.Proofs

open Sys2Proof Sys2Proof.Machine

/-! ### One move of a run -/

section
variable {m : Move} {u t : State} {p : Nat}

/-- A command word is taken on an idle port only (R101). -/
theorem caused_command_idle {w : CommandWord} (h : Caused (.input (.command p w)) u t) :
    (u.curAt p).stage = .idle := by
  cases h <;> assumption

/-- A waiter holds while `BUSY = 1` (R102). -/
theorem caused_requester_waiting (h : Caused (.requester p) u t) (hs : (u.curAt p).stage = .wait)
    (hb : u.busy = true) : t = u := by
  cases h with
  | nothingToDo | waiting | encodeHeld => rfl
  | granted _ hidle => simp [hb] at hidle
  | encoded hne | zeroed hne | armed hne => simp [hs] at hne

theorem waits_iff (s : State) (p : Nat) : s.waits p = true ↔ (s.curAt p).stage = .wait := by
  simp [State.waits]

/-- Only its own GRANT step and RESET end a requester's wait (R102, R103). -/
theorem caused_waits (h : Caused m u t) (hw : u.waits p = true) (hreset : m ≠ .reset)
    (hhold : m = .requester p → u.busy = true) : t.waits p = true := by
  rw [waits_iff] at hw ⊢
  rcases caused_curAt h p with hsame | hm | rfl | ⟨w, rfl, -⟩
  · rw [hsame, hw]
  · exact absurd hm hreset
  · rw [caused_requester_waiting h hw (hhold rfl), hw]
  · exact absurd (hw.symm.trans (caused_command_idle h)) nofun
end

section
variable {moves : Nat → Move} {run : Nat → State}

/-- A state of a run comes from the one before it by a row of R118, whatever stands on the agenda. -/
theorem isRun_caused (hrun : IsRun moves run) (n : Nat) :
    ∃ rest draws, Caused (moves n) (((run n).withAgenda rest).withDraws draws) (run (n + 1)) := by
  obtain ⟨rest, draws, h⟩ := hrun n
  exact ⟨rest, draws, (step_next h).2⟩

/-- What every row of R118 keeps, and the model's own fields do not matter to, holds along a run. -/
theorem isRun_invariant {I : State → Prop} (hrun : IsRun moves run) (h0 : I (run 0))
    (hfree : ∀ s rest draws, I s → I ((s.withAgenda rest).withDraws draws))
    (hstep : ∀ {m u t}, Caused m u t → I u → I t) (n : Nat) : I (run n) := by
  induction n with
  | zero => exact h0
  | succ n ih =>
    obtain ⟨rest, draws, h⟩ := isRun_caused hrun n
    exact hstep h (hfree _ rest draws ih)

/-! ### A transfer that is never completed (R113) -/

theorem isRun_waits (hrun : IsRun moves run) {p m n : Nat} (hmn : m ≤ n) (hw : (run m).waits p = true)
    (hreset : ∀ i, moves i ≠ .reset) (hhold : ∀ i, m ≤ i → moves i = .requester p → (run i).busy = true) :
    (run n).waits p = true := by
  induction n, hmn using Nat.le_induction with
  | base => exact hw
  | succ i hi ih =>
    obtain ⟨rest, draws, h⟩ := isRun_caused hrun i
    exact caused_waits h ih (hreset i) (hhold i hi)

/-- Settles O55: `BUSY` is cleared by the moves left out only (`caused_busy`), so no waiter is ever granted. -/
theorem stuckTransferNeverEnds : Obligations.StuckTransferNeverEnds := by
  intro moves run hrun h0 hmoves
  have hbusy : ∀ n, (run n).busy = true := by
    intro n
    induction n with
    | zero => exact h0
    | succ n ih =>
      obtain ⟨rest, draws, h⟩ := isRun_caused hrun n
      obtain ⟨hreset, hevent, hengine⟩ := hmoves n
      rcases caused_busy h with hb | ⟨-, -, -, hb, -⟩ | ⟨-, hm | hm | hm⟩
      · exact hb.trans ih
      · exact hb
      · exact absurd hm hreset
      · exact absurd hm hevent
      · exact absurd hm hengine
  exact ⟨hbusy, fun m p hw n hmn => isRun_waits hrun hmn hw (fun i => (hmoves i).1) fun i _ _ => hbusy i⟩

end

/-! ### The moves left of a transmission (R103 to R107, R128, R129) -/

/-- How many moves the owner with record `r` and then the engine have still to take until the completion. -/
def ownerMoves (c : Config) (r : Cur) : Nat :=
  match r.stage with
  | .enc => (c.bufLen - r.k) + c.bufLen + 3
  | .zero => c.bufLen + 3
  | .arm => c.bufLen + 2
  | .idle | .wait => 0

/-- The transmission in `s` has `n` moves left, of which the first is `a`: a step of its owner, or of the engine
once the transfer is in flight. -/
def MovesLeft (s : State) (a : Move) (n : Nat) : Prop :=
  match a with
  | .requester p => s.owns p = true ∧ n = ownerMoves s.cfg (s.curAt p)
  | .engine => s.xfer.active = true ∧ n = s.cfg.bufLen - s.xfer.pos + 1
  | .input _ | .reset => False

/-- The transmission in `s` is over or has fewer than `n` moves left. -/
def CloserThan (s : State) (n : Nat) : Prop := s.busy = false ∨ ∃ a k, k < n ∧ MovesLeft s a k

section
variable {m a : Move} {u t : State} {n : Nat}

theorem movesLeft_of_busyAccounted (h : u.BusyAccounted) (hb : u.busy = true) : ∃ a n, MovesLeft u a n := by
  rcases h hb with ⟨p, hp⟩ | ha
  · exact ⟨.requester p, _, hp, rfl⟩
  · exact ⟨.engine, _, ha, rfl⟩

/-- No other agent's move touches the owner's record, or the transfer in flight, unless it clears `BUSY`. -/
theorem caused_movesLeft_other (h : Caused m u t) (ha : MovesLeft u a n) (hm : m ≠ a) :
    t.busy = false ∨ MovesLeft t a n := by
  match a, ha with
  | .requester p, ⟨hp, hn⟩ =>
    rcases caused_curAt h p with hsame | rfl | hself | ⟨w, rfl, -⟩
    · right
      refine ⟨?_, ?_⟩
      · rw [State.owns, hsame]; exact hp
      · rw [hsame, caused_cfg h]; exact hn
    · cases h; exact .inl rfl
    · exact absurd hself hm
    · simp [owns_of_idle (caused_command_idle h)] at hp
  | .engine, ⟨hact, hn⟩ =>
    cases h with
    | setPixel => rw [storePixel_frame]; exact .inr ⟨hact, hn⟩
    | delivered | spurious | reset => exact .inl rfl
    | armed _ hquiet => simp [hquiet] at hact
    | engineQuiet | engineHeld | slot | completion => exact absurd rfl hm
    | _ => exact .inr ⟨hact, hn⟩

theorem ownerMoves_afterSlot {c : Config} {r : Cur} (hs : r.stage = .enc) (hk : r.k < c.bufLen) :
    ownerMoves c (afterSlot c r.k) < ownerMoves c r := by
  by_cases hlast : r.k + 1 = c.bufLen
  · rw [afterSlot_last hlast]
    simp only [ownerMoves, hs]
    omega
  · rw [afterSlot_more hlast]
    simp only [ownerMoves, hs]
    omega

/-- The owner's move is one of those left. -/
theorem caused_ownerMove {p : Nat} (h : Caused (.requester p) u t) (hwf : u.Wf) (hp : u.owns p = true) :
    CloserThan t (ownerMoves u.cfg (u.curAt p)) := by
  have hlen : p < u.cur.length := lt_length_of_owns hp
  cases h with
  | nothingToDo hs | waiting hs | granted hs => simp [State.owns, hs, Stage.owning] at hp
  | encoded hs hk =>
    refine .inr ⟨.requester p, _, ?_, owns_setCur_same (s := u.writeSlot _ _) (ne_of_eq_of_ne hs nofun)
      (afterSlot_owning ..), rfl⟩
    rw [curAt_setCur_same (s := u.writeSlot _ _) hlen]
    exact ownerMoves_afterSlot hs hk
  | encodeHeld hs hk => exact absurd (hwf.encRange _ (curAt_mem hlen) hs) hk
  | zeroed hs =>
    refine .inr ⟨.requester p, _, ?_, owns_setCur_same (s := u.setCompare 0) (ne_of_eq_of_ne hs nofun) rfl, rfl⟩
    rw [curAt_setCur_same (s := u.setCompare 0) hlen]
    simp [ownerMoves, hs]
  | armed hs =>
    refine .inr ⟨.engine, _, ?_, rfl, rfl⟩
    simp [ownerMoves, hs]

/-- The engine's move is one of those left. -/
theorem caused_engineMove (h : Caused .engine u t) (hwf : u.Wf) (ha : u.xfer.active = true) :
    CloserThan t (u.cfg.bufLen - u.xfer.pos + 1) := by
  cases h with
  | engineQuiet hquiet => simp [hquiet] at ha
  | engineHeld _ hpos => exact absurd hwf.posRange (Nat.not_le.2 hpos)
  | slot _ hpos =>
    refine .inr ⟨.engine, _, ?_, ha, rfl⟩
    simp only [slotStep, State.withXfer_cfg, State.withXfer_xfer, State.setCompare_cfg]
    omega
  | completion => exact .inl rfl

theorem caused_movesLeft_due (h : Caused a u t) (hwf : u.Wf) (ha : MovesLeft u a n) : CloserThan t n := by
  match a, ha with
  | .requester _, ⟨hp, hn⟩ => exact hn ▸ caused_ownerMove h hwf hp
  | .engine, ⟨hact, hn⟩ => exact hn ▸ caused_engineMove h hwf hact

end

/-! ### Weak fairness (R110) -/

section
variable {moves : Nat → Move} {run : Nat → State} {a : Move}

theorem isRun_movesLeft (hrun : IsRun moves run) {i n : Nat} (hwf : (run i).Wf) (ha : MovesLeft (run i) a n) :
    CloserThan (run (i + 1)) n ∨ (moves i ≠ a ∧ MovesLeft (run (i + 1)) a n) := by
  obtain ⟨rest, draws, h⟩ := isRun_caused hrun i
  have hleft : MovesLeft (((run i).withAgenda rest).withDraws draws) a n := by
    cases a <;> exact ha
  by_cases hm : moves i = a
  · subst hm
    exact .inl (caused_movesLeft_due h { hwf with } hleft)
  · exact (caused_movesLeft_other h hleft hm).imp .inl (⟨hm, ·⟩)

/-- The agent whose move is due takes it in the end, unless it is no longer due. -/
theorem weaklyFair_due (hfair : WeaklyFair moves run) {i n : Nat} (ha : MovesLeft (run i) a n) :
    ∃ j, i ≤ j ∧ (moves j = a ∨ ¬ MovesLeft (run j) a n) := by
  match a, ha with
  | .requester p, ⟨hp, _⟩ =>
    obtain ⟨j, hij, hj⟩ := hfair.owner i p hp
    exact ⟨j, hij, hj.imp_right fun hnot hleft => absurd hleft.1 (by simp [hnot])⟩
  | .engine, ⟨hact, _⟩ =>
    obtain ⟨j, hij, hj⟩ := hfair.engine i hact
    exact ⟨j, hij, hj.imp_right fun hnot hleft => absurd hleft.1 (by simp [hnot])⟩

/-- While the agent whose move is due does not take it, the move stays due. -/
theorem movesLeft_until (hrun : IsRun moves run) (hwf : ∀ n, (run n).Wf) {i j n : Nat} (hij : i ≤ j)
    (ha : MovesLeft (run i) a n) : MovesLeft (run j) a n ∨ ∃ k, i ≤ k ∧ CloserThan (run k) n := by
  induction j, hij using Nat.le_induction with
  | base => exact .inl ha
  | succ j hij ih =>
    refine ih.elim (fun hleft => ?_) .inr
    rcases isRun_movesLeft hrun (hwf j) hleft with hcloser | ⟨-, hstill⟩
    · exact .inr ⟨j + 1, Nat.le_succ_of_le hij, hcloser⟩
    · exact .inl hstill

theorem weaklyFair_closer (hrun : IsRun moves run) (hfair : WeaklyFair moves run) (hwf : ∀ n, (run n).Wf)
    {i n : Nat} (ha : MovesLeft (run i) a n) : ∃ k, i ≤ k ∧ CloserThan (run k) n := by
  obtain ⟨j, hij, hj⟩ := weaklyFair_due hfair ha
  rcases movesLeft_until hrun hwf hij ha with hleft | hcloser
  · rcases isRun_movesLeft hrun (hwf j) hleft with hcloser | ⟨hnot, -⟩
    · exact ⟨j + 1, Nat.le_succ_of_le hij, hcloser⟩
    · exact absurd hleft (hj.resolve_left hnot)
  · exact hcloser

/-- A transmission ends, by induction on the moves it has left. -/
theorem movesLeft_ends (hrun : IsRun moves run) (hfair : WeaklyFair moves run) (hwf : ∀ n, (run n).Wf) {i n : Nat}
    (ha : MovesLeft (run i) a n) : ∃ m, i ≤ m ∧ (run m).busy = false := by
  induction n using Nat.strong_induction_on generalizing i a with
  | _ n ih =>
    obtain ⟨k, hik, hb | ⟨b, n', hlt, hleft⟩⟩ := weaklyFair_closer hrun hfair hwf ha
    · exact ⟨k, hik, hb⟩
    · obtain ⟨m, hkm, hm⟩ := ih n' hlt hleft
      exact ⟨m, hik.trans hkm, hm⟩

end

/-- Settles O56: `BUSY` is accounted for along the run, so some agent's move is due until the completion. The
protocol and the environment's contract are not needed: a COMPLETE(`TIM_ID`) out of turn clears `BUSY` too. -/
theorem fairTransmissionEnds : Obligations.FairTransmissionEnds := by
  intro moves run hrun hfair hwf0 _ hacc0 _ n hb
  have hwf : ∀ i, (run i).Wf := isRun_invariant hrun hwf0 (fun _ _ _ h => { h with }) caused_wf
  have hacc : (run n).BusyAccounted := isRun_invariant hrun hacc0 (fun _ _ _ h => h) caused_busyAccounted n
  obtain ⟨a, k, hleft⟩ := movesLeft_of_busyAccounted hacc hb
  exact movesLeft_ends hrun hfair hwf hleft

end Sys2Proof.Proofs
end

section
/-! SUPPORT. Proof of the one statement of spec 42_transmission_controller.md that shows a run (R109, R171): weakly
fair, from reset, with a requester that waits for ever. -/

namespace Sys2Proof.Proofs

open Sys2Proof Sys2Proof.Machine

/-! ### The run that a sequence of moves makes -/

/-- The state that `r` answers, and `s` where it stops. -/
def nextOr (s : State) (r : Result) : State :=
  match r with
  | .next t => t
  | .fault _ | .refused _ => s

/-- The states from `s` on by the moves given, one after another. -/
def follow (moves : Nat → Move) (s : State) : Nat → State
  | 0 => s
  | n + 1 => nextOr (follow moves s n) (runMove (moves n) (follow moves s n))

section
variable {moves : Nat → Move} {s t : State} {n : Nat}

theorem follow_succ (h : runMove (moves n) (follow moves s n) = .next t) : follow moves s (n + 1) = t := by
  rw [follow, h, nextOr]

/-- No sequence of moves changes a parameter (R26). -/
theorem follow_cfg (moves : Nat → Move) (s : State) (n : Nat) : (follow moves s n).cfg = s.cfg := by
  induction n with
  | zero => rfl
  | succ n ih =>
    rw [follow]
    cases h : runMove (moves n) (follow moves s n) with
    | next t => exact (caused_cfg (runMove_next h)).trans ih
    | fault r | refused r => exact ih

/-- A block of the moves brings the run where `runMoves` of the block does. -/
theorem follow_runMoves {ms : List Move} (hms : ∀ k (hk : k < ms.length), moves (n + k) = ms[k])
    (h : runMoves ms (follow moves s n) = .next t) : follow moves s (n + ms.length) = t := by
  induction ms generalizing n with
  | nil => cases h; rfl
  | cons m ms ih =>
    obtain ⟨u, hu, hrest⟩ := runMoves_cons_next h
    have hm : moves n = m := hms 0 (Nat.succ_pos _)
    have hnext : follow moves s (n + 1) = u := follow_succ (hm ▸ hu)
    rw [List.length_cons, Nat.add_comm ms.length, ← Nat.add_assoc]
    refine ih (fun k hk => ?_) (hnext ▸ hrest)
    rw [Nat.add_assoc, Nat.add_comm 1]
    exact hms (k + 1) (Nat.succ_lt_succ hk)

/-- A move the spec has keeps the environment's contract. -/
theorem keepsContract_of_mayComeNext {m : Move} (h : s.MayComeNext m) : s.KeepsContract m := by
  rintro rfl
  exact h.2 rfl

theorem follow_step (hp : (follow moves s n).Protocol) (hm : (follow moves s n).MayComeNext (moves n)) :
    runMove (moves n) (follow moves s n) = .next (follow moves s (n + 1)) := by
  obtain ⟨t, ht⟩ := runMove_answers (fun _ => protocol_arm_inactive hp) hm
  rw [follow_succ ht, ht]

/-- Moves the spec has keep the shape and the protocol. -/
theorem follow_good (hwf : s.Wf) (hp : s.Protocol) (hm : ∀ n, (follow moves s n).MayComeNext (moves n)) (n : Nat) :
    (follow moves s n).Wf ∧ (follow moves s n).Protocol := by
  induction n with
  | zero => exact ⟨hwf, hp⟩
  | succ n ih =>
    obtain ⟨hwf, hp⟩ := ih
    have h := runMove_next (follow_step hp (hm n))
    exact ⟨caused_wf h hwf, caused_protocol h hwf hp (keepsContract_of_mayComeNext (hm n))⟩

/-- Moves the spec has make a run, each put at the head of the agenda as it comes. -/
theorem follow_isRun (hwf : s.Wf) (hp : s.Protocol) (hm : ∀ n, (follow moves s n).MayComeNext (moves n)) :
    IsRun moves (follow moves s) := by
  intro n
  obtain ⟨hwf, hp⟩ := follow_good hwf hp hm n
  refine ⟨(follow moves s n).agenda, (follow moves s n).draws, ?_⟩
  exact (step_of_agenda_cons (s := State.facing _ _ _ _) hwf.cfgOk rfl).trans (follow_step hp (hm n))

end

/-! ### Rounds of port 0 (R171) -/

/-- SHOW on port `p`. -/
def showMove (p : Nat) : Move := .input (encode (.showCmd p))

/-- One whole SHOW of port 0, from its issue step to its completion. -/
def showRound (c : Config) : List Move :=
  showMove 0 :: (List.replicate (c.bufLen + 3) (.requester 0) ++ List.replicate (c.bufLen + 1) .engine)

/-- Port 1 issues a SHOW, and after it port 0 one SHOW after another for ever. -/
def starvingMoves (c : Config) : Nat → Move
  | 0 => showMove 1
  | n + 1 => (showRound c).getD (n % (showRound c).length) .engine

/-- The run of `starvingMoves` from reset. -/
def starvingRun (c : Config) : Nat → State := follow (starvingMoves c) (State.resetWith c)

/-- The controller is Idle and port 0 may issue its next SHOW. -/
structure RoundStart (c : Config) (s : State) : Prop where
  cfgEq : s.cfg = c
  wf : s.Wf
  idle : s.busy = false
  quiet : s.xfer.active = false
  free : (s.curAt 0).stage = .idle

theorem runMove_showMove {s : State} {p : Nat} (hp : p < s.cfg.nReq) (hs : (s.curAt p).stage = .idle) :
    runMove (showMove p) s = .next (s.enterWait p) := by
  have hdec : decode s.cfg (encode (.showCmd p)) = .ok (.showCmd p) :=
    decodeOfEncode s.cfg (.showCmd p) (decide_eq_true hp)
  rw [showMove, runMove, arrive_of_decode hdec, exec_showCmd]
  exact onIdlePort_of_idle hp hs _

theorem runMoves_wf {ms : List Move} {s t : State} (hs : s.Wf) (h : runMoves ms s = .next t) : t.Wf := by
  induction ms generalizing s with
  | nil => cases h; exact hs
  | cons m ms ih =>
    obtain ⟨u, hu, hrest⟩ := runMoves_cons_next h
    exact ih (caused_wf (runMove_next hu) hs) hrest

section
variable {c : Config} {s : State}

/-- A round ends as it began, ready for the next. -/
theorem roundStart_showRound (h : RoundStart c s) : ∃ t, runMoves (showRound c) s = .next t ∧ RoundStart c t := by
  obtain ⟨rfl, hwf, hb, hx, hfree⟩ := h
  obtain ⟨-, -, -, hn, -⟩ := (Config.wf_iff s.cfg).1 hwf.cfgOk
  have hlen : 0 < s.cur.length := hwf.curLength ▸ hn
  have hwait : (s.enterWait 0).curAt 0 = { stage := .wait, k := 0 } := curAt_setCur_same hlen _
  have hround : runMoves (showRound s.cfg) s = .next (afterShow (s.enterWait 0) 0) := by
    rw [showRound, runMoves_cons _ (runMove_showMove hn hfree)]
    exact runMoves_showThenTransfer (wf_enterWait hwf 0) (by rw [hwait]) hb hx
  have hready : (afterShow (s.enterWait 0) 0).curAt 0 = Cur.ready :=
    curAt_setCur_same (s := s.enterWait 0) (List.length_set.trans_gt hlen) _
  exact ⟨_, hround, rfl, runMoves_wf hwf hround, rfl, rfl, by rw [hready]; rfl⟩

theorem length_showRound_pos (c : Config) : 0 < (showRound c).length := Nat.succ_pos _

/-- Within round `i` the moves are those of `showRound`, in order. -/
theorem starvingMoves_round (c : Config) (i : Nat) {k : Nat} (hk : k < (showRound c).length) :
    starvingMoves c (i * (showRound c).length + 1 + k) = (showRound c)[k] := by
  rw [Nat.add_right_comm, starvingMoves, Nat.mul_add_mod', Nat.mod_eq_of_lt hk, List.getD_eq_getElem _ _ hk]

theorem showRound_getD_cases (c : Config) (k : Nat) :
    (showRound c).getD (k + 1) .engine = .requester 0 ∨ (showRound c).getD (k + 1) .engine = .engine := by
  rw [showRound, List.getD_cons_succ]
  rcases Nat.lt_or_ge k
    (List.replicate (c.bufLen + 3) (Move.requester 0) ++ List.replicate (c.bufLen + 1) Move.engine).length with hk | hk
  · rw [List.getD_eq_getElem _ _ hk]
    exact (List.mem_append.1 (List.getElem_mem hk)).imp List.eq_of_mem_replicate List.eq_of_mem_replicate
  · exact .inr (List.getD_eq_default _ _ hk)

/-- A move of the schedule is the first SHOW of port 1, the SHOW that opens a round, or a machine agent's. -/
theorem starvingMoves_cases (c : Config) (n : Nat) :
    (n = 0 ∧ starvingMoves c n = showMove 1) ∨
    (∃ i, n = i * (showRound c).length + 1 ∧ starvingMoves c n = showMove 0) ∨
    starvingMoves c n = .requester 0 ∨ starvingMoves c n = .engine := by
  cases n with
  | zero => exact .inl ⟨rfl, rfl⟩
  | succ n =>
    rw [starvingMoves]
    cases hk : n % (showRound c).length with
    | zero =>
      refine .inr (.inl ⟨n / (showRound c).length, ?_, rfl⟩)
      rw [Nat.div_mul_cancel (Nat.dvd_of_mod_eq_zero hk)]
    | succ k => exact .inr (.inr (showRound_getD_cases c k))

/-- No round gives port 1 a step or delivers RESET. -/
theorem starvingMoves_ne (c : Config) (n : Nat) :
    starvingMoves c n ≠ .reset ∧ starvingMoves c n ≠ .requester 1 := by
  rcases starvingMoves_cases c n with ⟨-, h⟩ | ⟨_, -, h⟩ | h | h <;> rw [h] <;> exact ⟨nofun, nofun⟩

end

/-! ### The starving run -/

section
variable {c : Config}

theorem starvingRun_one (hn : 2 ≤ c.nReq) : starvingRun c 1 = (State.resetWith c).enterWait 1 :=
  follow_succ (runMove_showMove hn (by rw [follow, curAt_of_cur_replicate rfl]; rfl))

theorem starvingRun_roundStart (hc : c.wf = true) (hn : 2 ≤ c.nReq) (i : Nat) :
    RoundStart c (starvingRun c (i * (showRound c).length + 1)) := by
  induction i with
  | zero =>
    have hfree : ((State.resetWith c).enterWait 1).curAt 0 = Cur.ready :=
      (curAt_setCur_ne (Nat.zero_ne_one) _).trans (curAt_of_cur_replicate rfl 0)
    rw [Nat.zero_mul, starvingRun_one hn]
    exact ⟨rfl, wf_enterWait (resetMeetsTheInvariants c hc).1 1, rfl, rfl, by rw [hfree]; rfl⟩
  | succ i ih =>
    obtain ⟨t, hround, ht⟩ := roundStart_showRound ih
    have hnext := follow_runMoves (fun _ => starvingMoves_round c i) hround
    rwa [starvingRun, Nat.succ_mul, Nat.add_right_comm, hnext]

theorem starvingRun_mayComeNext (hc : c.wf = true) (hn : 2 ≤ c.nReq) (n : Nat) :
    (starvingRun c n).MayComeNext (starvingMoves c n) := by
  have hports : 2 ≤ (starvingRun c n).cfg.nReq := by rwa [starvingRun, follow_cfg]
  rcases starvingMoves_cases c n with ⟨rfl, h⟩ | ⟨i, rfl, h⟩ | h | h <;> rw [h]
  · exact ⟨hports, by rw [starvingRun, follow, curAt_of_cur_replicate rfl]; rfl⟩
  · exact ⟨Nat.lt_of_succ_lt hports, (starvingRun_roundStart hc hn i).free⟩
  · exact Nat.lt_of_succ_lt hports
  · trivial

theorem starvingRun_good (hc : c.wf = true) (hn : 2 ≤ c.nReq) (n : Nat) :
    (starvingRun c n).Wf ∧ (starvingRun c n).Protocol :=
  follow_good (resetMeetsTheInvariants c hc).1 (resetMeetsTheInvariants c hc).2.1 (starvingRun_mayComeNext hc hn) n

theorem starvingRun_isRun (hc : c.wf = true) (hn : 2 ≤ c.nReq) : IsRun (starvingMoves c) (starvingRun c) :=
  follow_isRun (resetMeetsTheInvariants c hc).1 (resetMeetsTheInvariants c hc).2.1 (starvingRun_mayComeNext hc hn)

theorem starvingRun_waits (hc : c.wf = true) (hn : 2 ≤ c.nReq) {n : Nat} (h : 1 ≤ n) :
    (starvingRun c n).waits 1 = true := by
  have hfirst : (starvingRun c 1).waits 1 = true := by
    have hlen : 1 < (State.resetWith c).cur.length := Nat.lt_of_lt_of_eq hn List.length_replicate.symm
    have hwait : ((State.resetWith c).enterWait 1).curAt 1 = { stage := .wait, k := 0 } := curAt_setCur_same hlen _
    rw [starvingRun_one hn, waits_iff, hwait]
  exact isRun_waits (starvingRun_isRun hc hn) h hfirst (fun i => (starvingMoves_ne c i).1)
    fun i _ hm => absurd hm (starvingMoves_ne c i).2

theorem le_roundStart (c : Config) (n : Nat) : n ≤ n * (showRound c).length + 1 :=
  Nat.le_succ_of_le (Nat.le_mul_of_pos_right n (length_showRound_pos c))

/-- The second move of every round is port 0's, which then waits: its GRANT (R103). -/
theorem starvingRun_grant (hc : c.wf = true) (hn : 2 ≤ c.nReq) (i : Nat) :
    starvingMoves c (i * (showRound c).length + 1 + 1) = .requester 0 ∧
    (starvingRun c (i * (showRound c).length + 1 + 1)).waits 0 = true := by
  have hround := starvingRun_roundStart hc hn i
  have hport : 0 < (starvingRun c (i * (showRound c).length + 1)).cfg.nReq := by
    rw [hround.cfgEq]
    exact Nat.lt_of_succ_lt hn
  have hfirst : starvingMoves c (i * (showRound c).length + 1) = showMove 0 :=
    starvingMoves_round c i (length_showRound_pos c)
  have hnext : starvingRun c (i * (showRound c).length + 1 + 1) =
      (starvingRun c (i * (showRound c).length + 1)).enterWait 0 :=
    follow_succ (hfirst ▸ runMove_showMove hport hround.free)
  refine ⟨starvingMoves_round c i (by simp [showRound]), ?_⟩
  have hwait : ((starvingRun c (i * (showRound c).length + 1)).enterWait 0).curAt 0 = { stage := .wait, k := 0 } :=
    curAt_setCur_same (hround.wf.curLength ▸ hport) _
  rw [hnext, waits_iff, hwait]

/-- Every round takes its GRANT, the steps of its owner and those of the engine. -/
theorem starvingRun_fair (hc : c.wf = true) (hn : 2 ≤ c.nReq) : WeaklyFair (starvingMoves c) (starvingRun c) where
  owner := fun n p _ =>
    have hidle := (starvingRun_roundStart hc hn n).idle
    ⟨_, le_roundStart c n, .inr (((starvingRun_good hc hn _).2.idleQuiet hidle).1 p)⟩
  grant := fun n _ => ⟨_, Nat.le_succ_of_le (le_roundStart c n), .inl ⟨0, starvingRun_grant hc hn n⟩⟩
  engine := fun n _ => ⟨_, le_roundStart c n, .inr (starvingRun_roundStart hc hn n).quiet⟩

/-- At the start of every round the controller is Idle, and port 1 waits. -/
theorem starvingRun_grantEnabled (hc : c.wf = true) (hn : 2 ≤ c.nReq) (i : Nat) :
    (starvingRun c (i * (showRound c).length + 1)).GrantEnabled :=
  ⟨(starvingRun_roundStart hc hn i).idle, 1, starvingRun_waits hc hn (Nat.le_add_left ..)⟩

end

/-- Settles O60, by `starvingRun`: port 0 is granted in every round, port 1 in none. -/
theorem starvationIsPossible : Obligations.StarvationIsPossible := fun c hc hn =>
  ⟨starvingMoves c, starvingRun c, rfl, starvingRun_isRun hc hn, starvingRun_fair hc hn,
    starvingRun_mayComeNext hc hn, fun _ => starvingRun_waits hc hn,
    fun n => ⟨_, le_roundStart c n, starvingRun_grantEnabled hc hn n⟩⟩

end Sys2Proof.Proofs
end

section
/-! SUPPORT. Proofs of the statements of spec 43_transfer_engine.md: what the engine leaves alone, the fault of a
start while a transfer is active, and the SLOT step. -/

namespace Sys2Proof.Proofs

open Sys2Proof Sys2Proof.Machine

/-! ### What the engine leaves alone (R135) -/

/-- Settles O28, one case per row of R118 that is the engine's: only the completion touches `BUSY`, and it needs a
finished transfer. -/
theorem engineLeavesTheCoreAlone : Obligations.EngineLeavesTheCoreAlone := by
  intro s t h
  cases engineStep_next h with
  | engineQuiet | engineHeld | slot => exact ⟨rfl, rfl, rfl, rfl, absurd rfl⟩
  | completion hf =>
    obtain ⟨hactive, hpos⟩ := (transferFinished_iff s).1 hf
    exact ⟨rfl, rfl, rfl, rfl, fun _ => ⟨hactive, hpos, rfl⟩⟩

/-! ### The start of a transfer while one is active (R133) -/

theorem startTransfer_of_active {s : State} (ha : s.xfer.active = true) :
    startTransfer s = .fault .startWhileActive :=
  if_pos ha

/-- Settles O25: the ARM step passes on the fault of `startTransfer`. -/
theorem startWhileActiveFaults : Obligations.StartWhileActiveFaults := by
  intro s p hs ha
  simp only [requesterStep, hs, armStep, startTransfer_of_active ha]

/-! ### The SLOT step (R128) -/

/-- Settles O26: the step is `slotStep`, which keeps the transfer active. -/
theorem slotStepOutputsTheNextSlot : Obligations.SlotStepOutputsTheNextSlot := by
  intro s ha hpos
  rw [engineStep_slot ha hpos, slotStep, ha]
  rfl

end Sys2Proof.Proofs
end

section
/-! SUPPORT. Proof of the statement of spec 60_exceptions.md: the completion event and a command commute. -/

namespace Sys2Proof.Proofs

open Sys2Proof Sys2Proof.Machine

/-! ### The completion event and a command (R147) -/

theorem storePixel_takeCompletion (s : State) (idx : BitVec 32) (px : Pixel) :
    (takeCompletion s).storePixel idx px = takeCompletion (s.storePixel idx px) := by
  by_cases hi : idx.toNat < s.cfg.ledCount
  · rw [storePixel_inRange hi, storePixel_inRange (s := takeCompletion s) hi]
    rfl
  · rw [storePixel_outOfRange hi, storePixel_outOfRange (s := takeCompletion s) hi]

/-- A command is an issue step whose effect has nothing in common with the handler of the completion: it keeps the
identity that the handler tests, and neither reads nor writes what the handler writes. -/
theorem exec_eq_onIdlePort {i : Instr} (hi : ∀ id, i ≠ .complete id) :
    ∃ (p : Nat) (effect : State → State), (∀ s, exec i s = onIdlePort p s effect) ∧
      (∀ s, (effect s).cfg = s.cfg) ∧ ∀ s, effect (takeCompletion s) = takeCompletion (effect s) := by
  cases i with
  | init p => exact ⟨p, _, exec_init p, fun _ => rfl, fun _ => rfl⟩
  | setPixel p idx r g b =>
    exact ⟨p, _, exec_setPixel p idx r g b, fun s => storePixel_cfg s idx _, fun s => storePixel_takeCompletion s idx _⟩
  | clear p => exact ⟨p, _, exec_clear p, fun _ => rfl, fun _ => rfl⟩
  | showCmd p => exact ⟨p, _, exec_showCmd p, fun _ => rfl, fun _ => rfl⟩
  | reserved p op => exact ⟨p, _, exec_reserved p op, fun _ => rfl, fun _ => rfl⟩
  | complete id => exact absurd rfl (hi id)

/-- Settles O19: the completion leaves the port as idle as it was, and the command leaves the identity as it was;
with a foreign identity the completion does nothing in either order. -/
theorem completionCommutesWithCommands : Obligations.CompletionCommutesWithCommands := by
  intro s a b i id hi ha hb
  obtain ⟨p, effect, hexec, hcfg, hcommute⟩ := exec_eq_onIdlePort hi
  obtain ⟨hp, hs, rfl⟩ := onIdlePort_next (hexec s ▸ hb)
  specialize hcfg s
  by_cases hid : id = s.cfg.timId
  · cases (execComplete_own hid).symm.trans ha
    refine ⟨takeCompletion (effect s), ?_, execComplete_own (hcfg ▸ hid)⟩
    rw [hexec, onIdlePort_of_idle (s := takeCompletion s) hp hs, hcommute]
  · cases (execComplete_foreign hid).symm.trans ha
    exact ⟨effect s, hb, execComplete_foreign (hcfg ▸ hid)⟩

end Sys2Proof.Proofs
end

section
/-! SUPPORT. Proof of the statement of spec 95_test_vectors.md 2.1: what the command words and the event words of the
vectors decode to. -/

namespace Sys2Proof.Proofs

open Sys2Proof Sys2Proof.Machine

/-! ### A table word under the set TV, on port 0 -/

/-- Port 0 exists under TV, so the decoder of R73 reads every 64-bit word. -/
theorem decodeTableWord_command (w : Nat) :
    decodeTableWord 64 w = some (decodeCommand 0 (BitVec.ofNat 64 w)) := by
  have hport : 0 < Config.tv.nReq := by decide
  rw [decodeTableWord, tableInput, if_pos rfl]
  simp only [decode_command_of_port hport]

/-- An event word has the eight bits of `ID_W` under TV (R67). -/
theorem decodeTableWord_event {id : Nat} (hid : id < 2 ^ Config.tv.idW) :
    decodeTableWord 8 id = some (.complete id) := by
  rw [decodeTableWord, tableInput, if_neg (by decide), if_pos (by decide)]
  simp only [decode_event_of_width hid]

section
variable {w : Nat}

theorem decodeTableWord_init (h : fieldOp (BitVec.ofNat 64 w) = 0x1#4) :
    decodeTableWord 64 w = some (.init 0) := by
  rw [decodeTableWord_command, decodeCommand_init 0 h]

/-- The word of a SET_PIXEL with any `rsv`, as the packing of its fields (R60). -/
theorem decodeTableWord_setPixel {idx : BitVec 32} {red green blue : Byte} (rsv : BitVec 4)
    (h : BitVec.ofNat 64 w = packCommand 0x2#4 rsv idx red green blue) :
    decodeTableWord 64 w = some (.setPixel 0 idx red green blue) := by
  rw [decodeTableWord_command, h, decodeCommand_setPixel 0 (Laws.fieldOp_packCommand ..), fieldIdx_packCommand,
    fieldRed_packCommand, fieldGreen_packCommand, fieldBlue_packCommand]

theorem decodeTableWord_clear (h : fieldOp (BitVec.ofNat 64 w) = 0x3#4) :
    decodeTableWord 64 w = some (.clear 0) := by
  rw [decodeTableWord_command, decodeCommand_clear 0 h]

theorem decodeTableWord_showCmd (h : fieldOp (BitVec.ofNat 64 w) = 0x4#4) :
    decodeTableWord 64 w = some (.showCmd 0) := by
  rw [decodeTableWord_command, decodeCommand_showCmd 0 h]

theorem decodeTableWord_reserved {op : BitVec 4} (h : fieldOp (BitVec.ofNat 64 w) = op)
    (hop : opAssigned op = false) : decodeTableWord 64 w = some (.reserved 0 op) := by
  subst h
  rw [decodeTableWord_command, decodeCommand_reserved 0 hop]

end

/-- Settles O5, by the row of the opcode map (R61) that each word falls under. A SET_PIXEL word is the packing of the
operands the vector names, with `rsv` all ones in C10; of every other command word only the opcode is read. -/
theorem vectorWordsDecode : Obligations.VectorWordsDecode := by
  refine ⟨?c1, ?c2, ?c3, ?c4, ?c5, ?c6, ?c7, ?c8, ?c9, ?c10, ?c11, ?c12, ?c13, ?c14, ?own, ?zero, ?seven, ?max⟩
  case c1 => exact decodeTableWord_init (by decide)
  case c2 | c3 | c4 | c5 | c6 => exact decodeTableWord_setPixel 0x0#4 (by decide)
  case c10 => exact decodeTableWord_setPixel 0xF#4 (by decide)
  case c7 | c14 => exact decodeTableWord_clear (by decide)
  case c8 | c9 => exact decodeTableWord_showCmd (by decide)
  case c11 | c12 | c13 => exact decodeTableWord_reserved (by decide) (by decide)
  case own | zero | seven | max => exact decodeTableWord_event (by decide)

end Sys2Proof.Proofs
end
